-- ==== Sys2Proof/Word.lean ====
section
/-! DEFINITION. The bit-vector types of the spec (00_scope R8) and the small named types that operands,
agents and bus accesses are made of. -/

namespace Sys2Proof

/-- `bits8`: the defined part of every register, and a character (10_state section 3). -/
abbrev Byte := BitVec 8

/-- `bits32`: a register word on the bus (20_memory R61) and a command word (30_encoding R85). -/
abbrev Word := BitVec 32

/-- `bits16`: the programmed divisor DLH : DLL (10_state R24). -/
abbrev Divisor := BitVec 16

/-- A byte offset from BASE, 0x00 to 0x7F (20_memory R60). -/
abbrev Offset := BitVec 7

/-- The 11-bit access key SIZE[10:9] DLAB[8] WE[7] OFF[6:0] (30_encoding R80). -/
abbrev AccessKey := BitVec 11

/-- Direction of a bus access (20_memory R68). -/
inductive Dir where
  | read
  | write
  deriving DecidableEq, Repr, Inhabited

/-- Width of a bus access: 1, 2 or 4 bytes (20_memory R68). -/
inductive Width where
  | byte
  | half
  | word
  deriving DecidableEq, Repr, Inhabited

/-- The two widths in which USR is read (20_memory R65, 40_register_access R118). -/
inductive UsrWidth where
  | byte
  | word
  deriving DecidableEq, Repr, Inhabited

/-- The value of a USR write, 8 or 32 bits (40_register_access R119). -/
inductive UsrValue where
  | byte (b : Byte)
  | word (w : Word)
  deriving DecidableEq, Repr, Inhabited

/-- A 32-bit access whose direction is an operand: the reserved rows examine no WE bit (30_encoding R82). -/
inductive BusOp where
  | read
  | write (v : Word)
  deriving DecidableEq, Repr, Inhabited

/-- CONFIGURE's word length, field WL (30_encoding R86). -/
inductive WordLength where
  | five
  | six
  | seven
  | eight
  deriving DecidableEq, Repr, Inhabited

/-- CONFIGURE's stop bits, field ST (30_encoding R86). -/
inductive StopBits where
  | one
  | two
  deriving DecidableEq, Repr, Inhabited

/-- CONFIGURE's parity, field PAR without its reserved code 0b11 (30_encoding R86). -/
inductive Parity where
  | none
  | odd
  | even
  deriving DecidableEq, Repr, Inhabited

/-- The three engine agents (10_state R37). -/
inductive EngineId where
  | eng
  | engTx
  | engRx
  deriving DecidableEq, Repr, Inhabited

/-- Every agent that takes steps: the engines, and the line's transmitter and receiver (43_line_agents). -/
inductive Agent where
  | engine (e : EngineId)
  | transmitter
  | receiver
  deriving DecidableEq, Repr, Inhabited

end Sys2Proof
end

