-- ==== Sys2Proof/Syntax.lean ====
section
/-! DEFINITION. The instructions: one constructor for each row of spec/opcode_table.json. -/

namespace Sys2Proof

/-- The 26 bus-access instructions that an access key selects (30_encoding R82) and the six engine
commands (30_encoding R85). A write carries the value on the bus; a reserved row carries its offset
where its mask leaves offset bits free, and its direction. -/
inductive Instr where
  -- offset 0x00 (R100 to R103)
  | rdRbr
  | wrThr (v : Word)
  | rdDll
  | wrDll (v : Word)
  -- offset 0x04 (R104 to R107)
  | rdIer
  | wrIer (v : Word)
  | rdDlh
  | wrDlh (v : Word)
  -- offset 0x08 (R108, R109)
  | rdIir
  | wrFcr (v : Word)
  -- offset 0x0C (R110, R111)
  | rdLcr
  | wrLcr (v : Word)
  -- offset 0x10 (R112, R113)
  | rdMcr
  | wrMcr (v : Word)
  -- offset 0x14 (R114, R115)
  | rdLsr
  | wrLsr (v : Word)
  -- offset 0x18 (R116, R117)
  | rdMsr
  | wrMsr (v : Word)
  -- offset 0x7C (R118, R119)
  | rdUsr (n : UsrWidth)
  | wrUsr (v : UsrValue)
  -- the reserved words 0x1C to 0x78 (R120)
  | rsvd1C (op : BusOp)
  | rsvd20 (off : Offset) (op : BusOp)
  | rsvd40 (off : Offset) (op : BusOp)
  | rsvd60 (off : Offset) (op : BusOp)
  | rsvd70 (off : Offset) (op : BusOp)
  | rsvd78 (op : BusOp)
  -- the engine's commands (R161 to R166)
  | configure (wl : WordLength) (st : StopBits) (par : Parity) (baud : Word)
  | writeByte (b : Byte)
  | flush
  | readByte
  | release
  | split
  deriving DecidableEq, Repr, Inhabited

end Sys2Proof
end

