-- ==== Sys2Proof/WellFormed.lean ====
section
/-! DEFINITION. Which terms of Instr an encoding can spell: the offset of a reserved row lies in that row
(30_encoding R82). Every other operand is well-formed by its type. -/

namespace Sys2Proof

/-- 0x20 to 0x3C in steps of 4: row RSVD (0x20-0x3C). -/
def inRsvd20 (off : Offset) : Bool := 0x20#7 ≤ off && off ≤ 0x3C#7 && off.toNat % 4 == 0

/-- 0x40 to 0x5C in steps of 4: row RSVD (0x40-0x5C). -/
def inRsvd40 (off : Offset) : Bool := 0x40#7 ≤ off && off ≤ 0x5C#7 && off.toNat % 4 == 0

/-- 0x60 to 0x6C in steps of 4: row RSVD (0x60-0x6C). -/
def inRsvd60 (off : Offset) : Bool := 0x60#7 ≤ off && off ≤ 0x6C#7 && off.toNat % 4 == 0

/-- 0x70 and 0x74: row RSVD (0x70-0x74). -/
def inRsvd70 (off : Offset) : Bool := 0x70#7 ≤ off && off ≤ 0x74#7 && off.toNat % 4 == 0

/-- The check of one instruction. -/
def Instr.wf : Instr → Bool
  | .rsvd20 off _ => inRsvd20 off
  | .rsvd40 off _ => inRsvd40 off
  | .rsvd60 off _ => inRsvd60 off
  | .rsvd70 off _ => inRsvd70 off
  | .rdRbr | .wrThr _ | .rdDll | .wrDll _ | .rdIer | .wrIer _ | .rdDlh | .wrDlh _ => true
  | .rdIir | .wrFcr _ | .rdLcr | .wrLcr _ | .rdMcr | .wrMcr _ | .rdLsr | .wrLsr _ => true
  | .rdMsr | .wrMsr _ | .rdUsr _ | .wrUsr _ | .rsvd1C _ | .rsvd78 _ => true
  | .configure _ _ _ _ | .writeByte _ | .flush | .readByte | .release | .split => true

end Sys2Proof
end

