-- ==== Sys2Proof/Decode.lean ====
section
/-! DEFINITION. Bit-field helpers, the decoder of access keys (30_encoding R80 to R84) and of command words
(R85 to R88), total and refusing by name, and after it the encoder written from the same tables. -/

namespace Sys2Proof

/-! ## Bit-field helpers (00_scope R8) -/

/-- `w[7:0]`. -/
def lowByte (w : Word) : Byte := w.setWidth 8

/-- `zext_32(b)`. -/
def byteWord (b : Byte) : Word := b.setWidth 32

/-- One bit as a Boolean: `v[i] = 1`. -/
def bitSet {n : Nat} (v : BitVec n) (i : Nat) : Bool := v.getLsbD i

/-- SIZE(n) (R80). -/
def Width.code : Width → BitVec 2
  | .byte => 0b00
  | .half => 0b01
  | .word => 0b10

/-- The width of a SIZE code, 0b11 not produced (R80). -/
def Width.ofCode (c : BitVec 2) : Option Width :=
  if c = 0b00 then some .byte else if c = 0b01 then some .half else if c = 0b10 then some .word else none

/-- WE (R80). -/
def Dir.code : Dir → BitVec 1
  | .read => 0
  | .write => 1

/-- The direction of WE. -/
def Dir.ofBit (b : Bool) : Dir := if b then .write else .read

/-- WL (R86). -/
def WordLength.code : WordLength → BitVec 2
  | .five => 0b00
  | .six => 0b01
  | .seven => 0b10
  | .eight => 0b11

/-- WL (R86), total on its two bits. -/
def WordLength.ofCode (c : BitVec 2) : WordLength :=
  if c = 0b00 then .five else if c = 0b01 then .six else if c = 0b10 then .seven else .eight

/-- ST (R86). -/
def StopBits.code : StopBits → BitVec 1
  | .one => 0
  | .two => 1

/-- ST (R86). -/
def StopBits.ofBit (b : Bool) : StopBits := if b then .two else .one

/-- PAR (R86). -/
def Parity.code : Parity → BitVec 2
  | .none => 0b00
  | .odd => 0b01
  | .even => 0b10

/-- PAR (R86); 0b11 is reserved (R87). -/
def Parity.ofCode (c : BitVec 2) : Option Parity :=
  if c = 0b00 then some .none else if c = 0b01 then some .odd else if c = 0b10 then some .even else Option.none

/-! ## Access keys -/

/-- Why an encoding is no instruction; the machine turns it into the refusal of the same name. -/
inductive DecodeError where
  /-- The key matches no row (R83): REF_BAD_ACCESS. -/
  | badAccess (key : AccessKey)
  /-- A reserved or illegal command encoding (R87): REF_RESERVED_CMD. -/
  | reservedCmd (w : Word)
  /-- There is no word to decode. -/
  | noWord
  deriving DecidableEq, Repr, Inhabited

/-- `access_key(dir, off, n, dlab)` (R80). -/
def accessKey (dir : Dir) (off : Offset) (n : Width) (dlab : Bool) : AccessKey :=
  n.code ++ (BitVec.ofBool dlab ++ (dir.code ++ off))

/-- Which accesses the block admits (20_memory R65): 32-bit ones at a multiple of 4 from 0x00 to 0x78, and
8-bit or 32-bit ones at 0x7C. -/
def admittedShape (off : Offset) (n : Width) : Bool :=
  match n with
  | .byte => off == 0x7C#7
  | .half => false
  | .word => off.toNat % 4 == 0

/-- OFF of a key. -/
def keyOff (k : AccessKey) : Offset := k.extractLsb' 0 7

/-- The access a reserved row's key stands for. -/
def keyOp (k : AccessKey) (v : Word) : BusOp := if bitSet k 7 then .write v else .read

/-- The width of a USR key: SIZE 0b00 or 0b10, told apart by bit 10. -/
def keyUsrWidth (k : AccessKey) : UsrWidth := if bitSet k 10 then .word else .byte

/-- The value of a USR write at the key's width. -/
def keyUsrValue (k : AccessKey) (v : Word) : UsrValue := if bitSet k 10 then .word v else .byte (lowByte v)

/-- One row of the access-key map: a key is in the row iff `key & mask = pattern` (R80). -/
structure KeyRow where
  pattern : AccessKey
  mask : AccessKey
  build : AccessKey → Word → Instr

/-- Rows at offsets 0x00 and 0x04, where DLAB is examined (R81, R82). -/
def keyRowsDlab : List KeyRow := [
  ⟨0x400, 0x7FF, fun _ _ => .rdRbr⟩,
  ⟨0x480, 0x7FF, fun _ v => .wrThr v⟩,
  ⟨0x500, 0x7FF, fun _ _ => .rdDll⟩,
  ⟨0x580, 0x7FF, fun _ v => .wrDll v⟩,
  ⟨0x404, 0x7FF, fun _ _ => .rdIer⟩,
  ⟨0x484, 0x7FF, fun _ v => .wrIer v⟩,
  ⟨0x504, 0x7FF, fun _ _ => .rdDlh⟩,
  ⟨0x584, 0x7FF, fun _ v => .wrDlh v⟩]

/-- Rows at offsets 0x08 to 0x18 and 0x7C (R82). -/
def keyRowsPlain : List KeyRow := [
  ⟨0x408, 0x6FF, fun _ _ => .rdIir⟩,
  ⟨0x488, 0x6FF, fun _ v => .wrFcr v⟩,
  ⟨0x40C, 0x6FF, fun _ _ => .rdLcr⟩,
  ⟨0x48C, 0x6FF, fun _ v => .wrLcr v⟩,
  ⟨0x410, 0x6FF, fun _ _ => .rdMcr⟩,
  ⟨0x490, 0x6FF, fun _ v => .wrMcr v⟩,
  ⟨0x414, 0x6FF, fun _ _ => .rdLsr⟩,
  ⟨0x494, 0x6FF, fun _ v => .wrLsr v⟩,
  ⟨0x418, 0x6FF, fun _ _ => .rdMsr⟩,
  ⟨0x498, 0x6FF, fun _ v => .wrMsr v⟩,
  ⟨0x07C, 0x2FF, fun k _ => .rdUsr (keyUsrWidth k)⟩,
  ⟨0x0FC, 0x2FF, fun k v => .wrUsr (keyUsrValue k v)⟩]

/-- The six reserved rows (R82). -/
def keyRowsRsvd : List KeyRow := [
  ⟨0x41C, 0x67F, fun k v => .rsvd1C (keyOp k v)⟩,
  ⟨0x420, 0x663, fun k v => .rsvd20 (keyOff k) (keyOp k v)⟩,
  ⟨0x440, 0x663, fun k v => .rsvd40 (keyOff k) (keyOp k v)⟩,
  ⟨0x460, 0x673, fun k v => .rsvd60 (keyOff k) (keyOp k v)⟩,
  ⟨0x470, 0x67B, fun k v => .rsvd70 (keyOff k) (keyOp k v)⟩,
  ⟨0x478, 0x67F, fun k v => .rsvd78 (keyOp k v)⟩]

/-- The access-key map of R82. -/
def keyTable : List KeyRow := keyRowsDlab ++ keyRowsPlain ++ keyRowsRsvd

/-- Whether a key is in a row (R80). -/
def KeyRow.hits (r : KeyRow) (k : AccessKey) : Bool := k &&& r.mask == r.pattern

/-- The instruction an access key selects, `v` being the value on the bus of a write (R83, R84). -/
def decodeKey (k : AccessKey) (v : Word) : Except DecodeError Instr :=
  match keyTable.find? (·.hits k) with
  | some r => .ok (r.build k v)
  | none => .error (.badAccess k)

/-! ## Command words -/

/-- OP = w[31:28] (R85). -/
def opField (w : Word) : BitVec 4 := w.extractLsb' 28 4

/-- Length in words, from the first word alone (R88). -/
def commandLength (w : Word) : Nat := if opField w = 0x1 then 2 else 1

/-- CONFIGURE's first word with the words after it (R85, R86, R87). -/
def decodeConfigure (w : Word) (rest : List Word) : Except DecodeError Instr :=
  if w.extractLsb' 0 23 ≠ 0 then .error (.reservedCmd w)
  else
    match Parity.ofCode (w.extractLsb' 23 2), rest with
    | some par, baud :: _ =>
      .ok (.configure (WordLength.ofCode (w.extractLsb' 26 2)) (StopBits.ofBit (bitSet w 25)) par baud)
    | _, _ => .error (.reservedCmd w)

/-- A command whose bits 27:0 must all be 0 (R85). -/
def decodeBare (w : Word) (i : Instr) : Except DecodeError Instr :=
  if w.extractLsb' 0 28 = 0 then .ok i else .error (.reservedCmd w)

/-- The command at the head of a list of command words (R85 to R88). -/
def decodeCommand : List Word → Except DecodeError Instr
  | [] => .error .noWord
  | w :: rest =>
    match (opField w).toNat with
    | 0x1 => decodeConfigure w rest
    | 0x2 => if w.extractLsb' 8 20 = 0 then .ok (.writeByte (lowByte w)) else .error (.reservedCmd w)
    | 0x3 => decodeBare w .flush
    | 0x4 => decodeBare w .readByte
    | 0x5 => decodeBare w .release
    | 0x6 => decodeBare w .split
    | _ => .error (.reservedCmd w)

/-! ## The encoder -/

/-- An instruction as the hardware meets it: an access key with the value on the bus (0 for a read), or the
words of a command. -/
inductive Encoding where
  | access (key : AccessKey) (v : Word)
  | command (ws : List Word)
  deriving DecidableEq, Repr, Inhabited

/-- The decoder on either form. -/
def decode : Encoding → Except DecodeError Instr
  | .access k v => decodeKey k v
  | .command ws => decodeCommand ws

/-- A 32-bit read of a window register, with DLAB where the row examines it and 0 where not. -/
def encodeRead (off : Offset) (dlab : Bool) : Encoding := .access (accessKey .read off .word dlab) 0

/-- A 32-bit write of a window register. -/
def encodeWrite (off : Offset) (dlab : Bool) (v : Word) : Encoding :=
  .access (accessKey .write off .word dlab) v

/-- A 32-bit access of a reserved word. -/
def encodeOp (off : Offset) : BusOp → Encoding
  | .read => encodeRead off false
  | .write v => encodeWrite off false v

/-- A command word from its OP and its bits 27:0 (R85). -/
def commandWord (op : BitVec 4) (low : BitVec 28) : Word := op ++ low

/-- The encoding of an instruction (R80, R82, R85, R86). -/
def encode : Instr → Encoding
  | .rdRbr => encodeRead 0x00 false
  | .wrThr v => encodeWrite 0x00 false v
  | .rdDll => encodeRead 0x00 true
  | .wrDll v => encodeWrite 0x00 true v
  | .rdIer => encodeRead 0x04 false
  | .wrIer v => encodeWrite 0x04 false v
  | .rdDlh => encodeRead 0x04 true
  | .wrDlh v => encodeWrite 0x04 true v
  | .rdIir => encodeRead 0x08 false
  | .wrFcr v => encodeWrite 0x08 false v
  | .rdLcr => encodeRead 0x0C false
  | .wrLcr v => encodeWrite 0x0C false v
  | .rdMcr => encodeRead 0x10 false
  | .wrMcr v => encodeWrite 0x10 false v
  | .rdLsr => encodeRead 0x14 false
  | .wrLsr v => encodeWrite 0x14 false v
  | .rdMsr => encodeRead 0x18 false
  | .wrMsr v => encodeWrite 0x18 false v
  | .rdUsr .byte => .access (accessKey .read 0x7C .byte false) 0
  | .rdUsr .word => encodeRead 0x7C false
  | .wrUsr (.byte b) => .access (accessKey .write 0x7C .byte false) (byteWord b)
  | .wrUsr (.word w) => encodeWrite 0x7C false w
  | .rsvd1C op => encodeOp 0x1C op
  | .rsvd20 off op => encodeOp off op
  | .rsvd40 off op => encodeOp off op
  | .rsvd60 off op => encodeOp off op
  | .rsvd70 off op => encodeOp off op
  | .rsvd78 op => encodeOp 0x78 op
  | .configure wl st par baud =>
    .command [commandWord 0x1 (wl.code ++ (st.code ++ (par.code ++ 0#23))), baud]
  | .writeByte b => .command [commandWord 0x2 (b.setWidth 28)]
  | .flush => .command [commandWord 0x3 0]
  | .readByte => .command [commandWord 0x4 0]
  | .release => .command [commandWord 0x5 0]
  | .split => .command [commandWord 0x6 0]

/-! ## The host's words -/

/-- The words of a command given as one number: the first word is bits 31:0, BAUD is bits 63:32 and stands
only where the first word asks for it (R88). -/
def tableCommandWords (w : Nat) : List Word :=
  let first := BitVec.ofNat 32 w
  if commandLength first = 2 then [first, BitVec.ofNat 32 (w / 2 ^ 32)] else [first]

/-- What the decoder reads from an instruction whose bits are `w`: a row of at most 16 bits is an access
key (11 bits, the bits above it 0) with the value 0 on the bus; a longer row is a command word, its
second word above it. -/
def decodeTableWord (nbits w : Nat) : Option Instr :=
  if nbits ≤ 16 then
    if w < 2 ^ 11 then (decodeKey (BitVec.ofNat 11 w) 0).toOption else none
  else (decodeCommand (tableCommandWords w)).toOption

end Sys2Proof
end

