-- ==== Sys2Proof/Config.lean ====
section
/-! DEFINITION. What an implementation fixes (the parameters of 00_scope R5) and the free values: opaque
constants, so that no proof can see what they are. -/

namespace Sys2Proof

/-- Which USR bit WRITE_BYTE polls (00_scope R5, 92_eei_decisions D13). -/
inductive TxPoll where
  | busy
  | tfnf
  deriving DecidableEq, Repr, Inhabited

/-- The parameters of 00_scope R5. They are fixed for a run; `exec` and `step` have no parameter argument,
so the state carries them and no step changes them (assumption 3). -/
structure Params where
  /-- BASE: physical base address of the block. -/
  base : Nat
  /-- CLK_HZ: the frequency `current_frequency` returns. -/
  clkHz : Nat
  /-- TX_DEPTH: capacity of the transmit FIFO. -/
  txDepth : Nat
  /-- RX_DEPTH: capacity of the receive FIFO. -/
  rxDepth : Nat
  /-- GATE_ID: the clock gate of this instance. -/
  gateId : Nat
  /-- TX_POLL: the bit WRITE_BYTE polls. -/
  txPoll : TxPoll
  /-- LCR_BUSY_GUARD: whether LCR, DLL and DLH writes are lost while BUSY = 1. -/
  lcrBusyGuard : Bool
  deriving DecidableEq, Repr, Inhabited

/-- The ranges 00_scope R5 gives the parameters. -/
def Params.valid (p : Params) : Bool :=
  p.base % 4 == 0 && decide (1 ≤ p.clkHz) && decide (p.clkHz ≤ 2 ^ 32 - 1)
    && decide (1 ≤ p.txDepth) && decide (1 ≤ p.rxDepth)

/-- The free values (`draw`, 00_scope R9): the n-th one taken. FREE VALUE, assumption 4. -/
opaque Config.freeWord : Nat → BitVec 32

/-- The interrupt output at the n-th step while an enable is set (60_exceptions R229). FREE VALUE, assumption 13. -/
opaque Config.freeIrq : Nat → Bool

/-- Which agent is asked after the n-th step (20_memory R69, 60_exceptions R227). FREE VALUE, assumption 5. -/
opaque Config.schedule : Nat → Agent

/-- BASE divided by 4 (OPEN in 00_scope R5). -/
opaque Config.baseWords : Nat

/-- The seed of CLK_HZ (OPEN in 00_scope R5). -/
opaque Config.clkSeed : Nat

/-- TX_DEPTH less 1 (OPEN in 00_scope R5). -/
opaque Config.txDepthPred : Nat

/-- RX_DEPTH less 1 (OPEN in 00_scope R5). -/
opaque Config.rxDepthPred : Nat

/-- GATE_ID (OPEN in 00_scope R5). -/
opaque Config.gateId : Nat

/-- The parameters a run from reset has: the open ones are any values in their ranges, TX_POLL and
LCR_BUSY_GUARD have the defaults 00_scope R5 gives. -/
def Params.launch : Params where
  base := 4 * Config.baseWords
  clkHz := 1 + Config.clkSeed % (2 ^ 32 - 1)
  txDepth := Config.txDepthPred + 1
  rxDepth := Config.rxDepthPred + 1
  gateId := Config.gateId
  txPoll := .busy
  lcrBusyGuard := false

end Sys2Proof
end

