-- ==== Sys2Proof/Machine/State.lean ====
section
/-! DEFINITION. The state of the machine (10_state), the reasons a step stops (60_exceptions R220, R221), and
the launch state (70_reset_and_hazards R253). -/

namespace Sys2Proof.Machine

/-- The clock gate of this instance (R21). -/
inductive Gate where
  | off
  | on
  deriving DecidableEq, Repr, Inhabited

/-- The handle state (R36). -/
inductive HandleState where
  | unbound
  | serial
  | split
  deriving DecidableEq, Repr, Inhabited

/-- The step of the current command (42_poll_engine R160 to R166); `idle` between commands. -/
inductive Phase where
  | idle
  | cfGate
  | cfIerRd
  | cfIerWr
  | cfDiv
  | cfLcrRd1
  | cfLcrSet
  | cfDll
  | cfDlh
  | cfLcrClr
  | cfLcrRd2
  | cfLcrWr
  | wbPoll
  | wbPush
  | flPoll
  | rbPoll
  | rbPop
  | rlGate
  | spDo
  deriving DecidableEq, Repr, Inhabited

/-- What REF_WRONG_HANDLE_STATE records (R160): the command not admitted in the handle state, or the
position of the word that stands after a SPLIT. -/
inductive HandleCause where
  | notAdmitted (hs : HandleState) (op : BitVec 4)
  | splitNotLast (next : Nat)
  deriving DecidableEq, Repr, Inhabited

/-- The faults of R220, each with the information it records. All are safe: the model stops where the chip
hangs or corrupts data (R10). -/
inductive Fault where
  /-- FLT_GATED_ACCESS (0x01): a bus access while the gate is OFF (R68, R222). Raised by the common access
  procedure. Safe. -/
  | gatedAccess (dir : Dir) (off : Offset) (n : Width)
  /-- FLT_TX_OVERFLOW (0x02): a THR write while the transmit FIFO is full (R101, R223). Raised by WR_THR. Safe. -/
  | txOverflow (b : Byte)
  /-- FLT_RX_UNDERFLOW (0x03): an RBR read while the receive FIFO is empty (R100, R224). Raised by RD_RBR. Safe. -/
  | rxUnderflow (off : Offset)
  /-- FLT_RX_OVERRUN (0x04): a character arrives while the receive FIFO is full (R203, R225). Raised by
  RXL_DONE. Safe. -/
  | rxOverrun (c : Byte)
  deriving DecidableEq, Repr

/-- The refusals of R221, each with what it records, and the model's own. All are safe: the model gives the
form no meaning and stops (R10). -/
inductive Refusal where
  /-- The host's name for an instruction without a meaning. Raised by no arm. Safe. -/
  | notModelled (mnemonic : String)
  /-- REF_BAD_ACCESS (0x10): a width, alignment or offset the block does not allow (R65, R68). Raised by the
  common access procedure. Safe. -/
  | badAccess (dir : Dir) (off : Offset) (n : Width)
  /-- REF_UNMODELLED_REG (0x11): an access to IIR, FCR, MCR or MSR, or a write to LSR (R108, R109, R112, R113,
  R115, R116, R117). Raised by those rows. Safe. -/
  | unmodelledReg (off : Offset)
  /-- REF_USR_WRITE (0x12): a write to USR (R119). Raised by WR_USR. Safe. -/
  | usrWrite (v : UsrValue)
  /-- REF_RESERVED_OFFSET (0x13): an access at 0x1C to 0x78 (R120). Raised by the RSVD rows. Safe. -/
  | reservedOffset (off : Offset)
  /-- REF_RESERVED_CMD (0x14): a reserved or illegal command word (R87, R160). Raised at fetch. Safe. -/
  | reservedCmd (a : EngineId) (cp : Nat) (w : Word)
  /-- REF_WRONG_HANDLE_STATE (0x15): a command not admitted for the agent and handle state, or a SPLIT that is
  not the last word (R160, R167). Raised at fetch. Safe. -/
  | wrongHandleState (a : EngineId) (why : HandleCause)
  /-- REF_BAUD_ZERO (0x16): CONFIGURE with BAUD = 0 (R143). Raised at fetch. Safe. -/
  | baudZero (baud : Nat)
  /-- REF_BAUD_RANGE (0x17): CONFIGURE whose 32-bit intermediate values would overflow (R143). Raised at
  fetch. Safe. -/
  | baudRange (baud : Nat)
  /-- The model's own: a bus address outside [BASE, BASE + 0x80), which is the platform's (R60, R63). Raised by
  the bus access at an address; the engine issues none. Safe. Assumption 10. -/
  | outsideBlock (addr : Nat)
  /-- The model's own: a command executed in a phase of another command, which no run reaches. Raised by the
  commands. Safe. Assumption 10. -/
  | phaseMismatch (a : EngineId) (p : Phase)
  deriving DecidableEq, Repr

/-- A character with the LCR value and the divisor captured for it (R29, R34). -/
structure TxChar where
  char : Byte
  lcr : Byte
  div : Divisor
  deriving DecidableEq, Repr, Inhabited

/-- An engine agent (R37, R38). -/
structure Engine where
  /-- The command program, fixed at launch. -/
  prog : List Word
  /-- The command pointer: index of the current command word. -/
  cp : Nat
  /-- The step of the current command. -/
  phase : Phase
  /-- The last register value CONFIGURE read. -/
  t : Word
  /-- The divisor CONFIGURE computed (used by ENG only). -/
  d : Divisor
  /-- The bytes READ_BYTE has delivered, in order. -/
  out : List Byte
  /-- Whether the agent takes steps. -/
  live : Bool
  deriving DecidableEq, Repr, Inhabited

/-- One access presented at the block's register port (assumption 7; R68's `access(dir, off, n, v)`). -/
structure BusRequest where
  dir : Dir
  off : Offset
  n : Width
  v : Word
  deriving DecidableEq, Repr, Inhabited

/-- The machine. The fields down to `engRx` are the spec's (10_state); the ones below `par` are the model's. -/
structure State where
  /-- The clock gate (R21). -/
  gate : Gate
  /-- Interrupt enable register (R22). -/
  ier : Byte
  /-- Line control register; DLAB is its bit 7 (R23, R25). -/
  lcr : Byte
  /-- Divisor latch low (R24). -/
  dll : Byte
  /-- Divisor latch high (R24). -/
  dlh : Byte
  /-- Transmit FIFO, head first (R28). -/
  txq : List Byte
  /-- The transmitter's shift stage (R29). -/
  txsh : Option TxChar
  /-- Receive FIFO, head first (R30). -/
  rxq : List Byte
  /-- Whether a character is arriving (R30). -/
  rxActive : Bool
  /-- The characters put on the line, in order (R34). -/
  lineOut : List TxChar
  /-- The fault marks: a set, kept without repeats (R35). -/
  faults : List Fault
  /-- The refusal marks: a set, kept without repeats (R35). -/
  refused : List Refusal
  /-- The handle state (R36). -/
  hs : HandleState
  /-- ENG (R37). -/
  eng : Engine
  /-- ENG_TX (R37). -/
  engTx : Engine
  /-- ENG_RX (R37). -/
  engRx : Engine
  /-- The parameters (00_scope R5), which no step changes. -/
  par : Params
  /-- The model's: how many free values have been taken (assumption 4). -/
  draws : Nat
  /-- The model's: how many steps have been taken (assumption 5). -/
  tick : Nat
  /-- The model's: the agent asked for the next step (assumption 5). -/
  turn : Agent
  /-- The model's: the engine agent whose command `exec` executes (assumption 9). -/
  cur : EngineId
  /-- The model's: an access presented at the register port (assumption 7). -/
  port : Option BusRequest
  /-- The model's: what the last read presented at the port returned (assumption 7). -/
  portData : Word
  deriving DecidableEq, Repr

/-- An engine agent before its first command (R37); `t` and `d` hold no value in the spec, 0 here (DESIGN
CHOICE, assumption 2); the program is loaded from outside (assumption 8). -/
def Engine.launch (live : Bool) : Engine where
  prog := []
  cp := 0
  phase := .idle
  t := 0
  d := 0
  out := []
  live := live

/-- The launch state (R253): gate OFF, UNBOUND, no marks, ENG alone live. The register block holds no value in
the spec while the gate is OFF; here it holds the values a gate reset gives (DESIGN CHOICE, assumption 1). -/
def State.reset : State where
  gate := .off
  ier := 0x00
  lcr := 0x00
  dll := 0x00
  dlh := 0x00
  txq := []
  txsh := none
  rxq := []
  rxActive := false
  lineOut := []
  faults := []
  refused := []
  hs := .unbound
  eng := .launch true
  engTx := .launch false
  engRx := .launch false
  par := .launch
  draws := 0
  tick := 0
  turn := .engine .eng
  cur := .eng
  port := none
  portData := 0

end Sys2Proof.Machine
end

