-- ==== Sys2Proof/Machine/Ops.lean ====
section
/-! DEFINITION. The named operations every meaning is built from: outcomes in sequence, free values, the
engine agents, the clock gate (70_reset_and_hazards section 1), the gate check of an access (20_memory
R68), and the marks a fault or a refusal leaves (60_exceptions R226). -/

namespace Sys2Proof.Machine

/-- The outcome of a step of the machine (00_scope R10). -/
abbrev Outcome := Host.Outcome State Fault Refusal

/-- The outcome of a bus access: the state after it and, for a read, the value it returned (zero-extended
for an 8-bit read). -/
abbrev BusResult := Host.Outcome (State × Option Word) Fault Refusal

/-- Go on with the result, or stop as it stopped. -/
def andThen {σ τ : Type} (o : Host.Outcome σ Fault Refusal) (f : σ → Host.Outcome τ Fault Refusal) :
    Host.Outcome τ Fault Refusal :=
  match o with
  | .next s => f s
  | .fault r => .fault r
  | .refused r => .refused r

/-! ## Free values -/

/-- The free value the next draw takes (R9). -/
def State.free (s : State) : Word := Config.freeWord s.draws

/-- The state after a draw: the next one takes another value. -/
def State.drew (s : State) : State := { s with draws := s.draws + 1 }

/-! ## Engine agents -/

/-- An engine agent by name. -/
def State.engine (s : State) : EngineId → Engine
  | .eng => s.eng
  | .engTx => s.engTx
  | .engRx => s.engRx

/-- Replace an engine agent. -/
def State.setEngine (s : State) (a : EngineId) (e : Engine) : State :=
  match a with
  | .eng => { s with eng := e }
  | .engTx => { s with engTx := e }
  | .engRx => { s with engRx := e }

/-- The engine agent whose command is executed. -/
def State.self (s : State) : Engine := s.engine s.cur

/-- Change that agent. -/
def State.setSelf (s : State) (e : Engine) : State := s.setEngine s.cur e

/-- `A.phase <- p`. -/
def State.toPhase (s : State) (p : Phase) : State := s.setSelf { s.self with phase := p }

/-- `A.t <- v`. -/
def State.setT (s : State) (v : Word) : State := s.setSelf { s.self with t := v }

/-- `A.d <- d`. -/
def State.setD (s : State) (d : Divisor) : State := s.setSelf { s.self with d := d }

/-- `A.out <- A.out ++ [b]`. -/
def State.deliverByte (s : State) (b : Byte) : State := s.setSelf { s.self with out := s.self.out ++ [b] }

/-- `A.cp <- A.cp + k; A.phase <- IDLE`: the command is complete (R38). -/
def State.complete (s : State) (k : Nat) : State :=
  s.setSelf { s.self with cp := s.self.cp + k, phase := .idle }

/-- Whether an agent takes steps. -/
def State.setLive (s : State) (a : EngineId) (l : Bool) : State :=
  s.setEngine a { s.engine a with live := l }

/-! ## The clock-subsystem contract (R250 to R252) -/

/-- What a reset of this instance's gate does to the block (R250). -/
def State.blockReset (s : State) : State :=
  { s with
    gate := .on, ier := 0x00#8, lcr := 0x00#8, dll := 0x00#8, dlh := 0x00#8
    txq := [], txsh := none, rxq := [], rxActive := false }

/-- `Gate.reset(id)`: the block sees the reset of its own gate only (R250). -/
def gateReset (id : Nat) (s : State) : State := if id = s.par.gateId then s.blockReset else s

/-- `Gate.free(id)` (R251). -/
def gateFree (id : Nat) (s : State) : State := if id = s.par.gateId then { s with gate := .off } else s

/-- `Gate.current_frequency()` (R252). -/
def currentFrequency (s : State) : Nat := s.par.clkHz

/-! ## The gate check and the delivery of an access -/

/-- An access while the gate is OFF faults (R68, R222). -/
def gated (dir : Dir) (off : Offset) (n : Width) (s : State) (r : BusResult) : BusResult :=
  match s.gate with
  | .off => .fault (.gatedAccess dir off n)
  | .on => r

/-- An access made at the register port: a read's value is delivered there (assumption 7). -/
def deliver (r : BusResult) : Outcome :=
  andThen r fun p =>
    match p.2 with
    | some w => .next { p.1 with portData := w }
    | none => .next p.1

/-! ## Marks (R35, R226): the one way a stop is recorded -/

/-- Whether the state is faulted or refused. -/
def State.marked (s : State) : Bool := !s.faults.isEmpty || !s.refused.isEmpty

/-- The state with the mark of a fault; nothing else changes (R68). -/
def State.markFault (s : State) (f : Fault) : State :=
  { s with faults := if f ∈ s.faults then s.faults else s.faults ++ [f] }

/-- The state with the mark of a refusal; nothing else changes (R68). -/
def State.markRefusal (s : State) (r : Refusal) : State :=
  { s with refused := if r ∈ s.refused then s.refused else s.refused ++ [r] }

/-- The state an outcome of a step from `s` leaves behind: the next state, or `s` with the stop's mark. -/
def State.settle (s : State) : Outcome → State
  | .next t => t
  | .fault f => s.markFault f
  | .refused r => s.markRefusal r

/-- The numeric code of a fault (R220). -/
def Fault.code : Fault → Byte
  | .gatedAccess _ _ _ => 0x01
  | .txOverflow _ => 0x02
  | .rxUnderflow _ => 0x03
  | .rxOverrun _ => 0x04

/-- The numeric code of a refusal (R221); the model's own have none. -/
def Refusal.code : Refusal → Option Byte
  | .badAccess _ _ _ => some 0x10
  | .unmodelledReg _ => some 0x11
  | .usrWrite _ => some 0x12
  | .reservedOffset _ => some 0x13
  | .reservedCmd _ _ _ => some 0x14
  | .wrongHandleState _ _ => some 0x15
  | .baudZero _ => some 0x16
  | .baudRange _ => some 0x17
  | .outsideBlock _ | .phaseMismatch _ _ => none
  | _ => none

/-! ## Addresses (R60) -/

/-- The offset a physical address reaches in the block: BASE <= a < BASE + 0x80. -/
def offsetOf (p : Params) (a : Nat) : Option Offset :=
  if p.base ≤ a ∧ a < p.base + 0x80 then some (BitVec.ofNat 7 (a - p.base)) else none

/-- The physical address of an offset. -/
def addressOf (p : Params) (off : Offset) : Nat := p.base + off.toNat

end Sys2Proof.Machine
end

