-- ==== Sys2Proof/Machine/Flags.lean ====
section
/-! DEFINITION. The status bits, computed from the state at the step of the read (10_state R31, R32), the
status decoder (41 R145) and the interrupt output (60_exceptions R228, R229). -/

namespace Sys2Proof.Machine

/-- USR bit 0, BUSY (R31). -/
def State.busy (s : State) : Bool := !s.txq.isEmpty || s.txsh.isSome || s.rxActive

/-- USR bit 1, TFNF: the transmit FIFO is not full (R31). -/
def State.tfnf (s : State) : Bool := decide (s.txq.length < s.par.txDepth)

/-- USR bit 2, TFE: the transmit FIFO is empty (R31). -/
def State.tfe (s : State) : Bool := s.txq.isEmpty

/-- USR bit 3, RFNE: the receive FIFO is not empty (R31). -/
def State.rfne (s : State) : Bool := !s.rxq.isEmpty

/-- USR bit 4, RFF: the receive FIFO is full (R31). -/
def State.rff (s : State) : Bool := decide (s.rxq.length = s.par.rxDepth)

/-- LSR bit 0, DR: data ready (R32). -/
def State.dr (s : State) : Bool := !s.rxq.isEmpty

/-- USR's byte, its bits 7:5 given (R31, R118). -/
def State.usr (s : State) (high : BitVec 3) : Byte :=
  high ++ (BitVec.ofBool s.rff ++ (BitVec.ofBool s.rfne ++ (BitVec.ofBool s.tfe ++
    (BitVec.ofBool s.tfnf ++ BitVec.ofBool s.busy))))

/-- LSR's byte, its bits 7:1 given (R32, R114). -/
def State.lsr (s : State) (high : BitVec 7) : Byte := high ++ BitVec.ofBool s.dr

/-- What STATUS_DECODE returns (R145). -/
structure UsrStatus where
  busy : Bool
  transmitFifoNotFull : Bool
  transmitFifoEmpty : Bool
  receiveFifoNotEmpty : Bool
  receiveFifoFull : Bool
  deriving DecidableEq, Repr

/-- STATUS_DECODE (R145): a test of five fixed bits, total on all 256 values. -/
def statusDecode (u : Byte) : UsrStatus where
  busy := bitSet u 0
  transmitFifoNotFull := bitSet u 1
  transmitFifoEmpty := bitSet u 2
  receiveFifoNotEmpty := bitSet u 3
  receiveFifoFull := bitSet u 4

/-- What WRITE_BYTE waits for (R162): BUSY = 0 or TFNF = 1, as TX_POLL says. -/
def State.showsRoom (s : State) : Bool :=
  match s.par.txPoll with
  | .busy => !s.busy
  | .tfnf => s.tfnf

/-- DLAB = LCR[7] (R25). -/
def State.dlab (s : State) : Bool := bitSet s.lcr 7

/-- The programmed divisor DIV = DLH : DLL (R24). -/
def State.div (s : State) : Divisor := s.dlh ++ s.dll

/-- IER[3:0], the enables of the four interrupt sources (R22, R228). -/
def State.irqEnables (s : State) : BitVec 4 := s.ier.extractLsb' 0 4

/-- The interrupt output (R229): 0 with all four sources masked, else a free value at every step. -/
def State.irq (s : State) : Bool := if s.irqEnables = 0 then false else Config.freeIrq s.tick

end Sys2Proof.Machine
end

