-- ==== Sys2Proof/Machine/Operands.lean ====
section
/-! DEFINITION. The block's combinational functions on CONFIGURE's operands (41_line_control_decoder), and the
frame a line setting asks for (43_line_agents R204). -/

namespace Sys2Proof.Machine

/-- PEN: parity is generated (R140). -/
def parityEnable : Parity → BitVec 1
  | .none => 0
  | .odd => 1
  | .even => 1

/-- EPS: parity is even (R140); "none" writes 0 (92_eei_decisions D10). -/
def parityEven : Parity → BitVec 1
  | .none => 0
  | .odd => 0
  | .even => 1

/-- LCR_ENCODE (R140): SP : EPS : PEN : STOP : DLS, stick parity always 0. -/
def lcrEncode (wl : WordLength) (st : StopBits) (par : Parity) : BitVec 6 :=
  0#1 ++ (parityEven par ++ (parityEnable par ++ (st.code ++ wl.code)))

/-- LCR_DECODE (R142): the inverse, none on the 40 values LCR_ENCODE never gives. -/
def lcrDecode (f : BitVec 6) : Option (WordLength × StopBits × Parity) :=
  if bitSet f 5 then none
  else if !bitSet f 3 && bitSet f 4 then none
  else
    some (WordLength.ofCode (f.extractLsb' 0 2), StopBits.ofBit (bitSet f 2),
      if bitSet f 3 then (if bitSet f 4 then .even else .odd) else .none)

/-- DIVISOR (R143): the floor quotient (C + 8B) div 16B, truncated to 16 bits; zero and overflowing baud
rates are refused (90_conflicts C1, 92_eei_decisions D11). -/
def divisor (c b : Nat) : Except Refusal Divisor :=
  if b = 0 then .error (.baudZero b)
  else if 16 * b > 2 ^ 32 - 1 ∨ c + 8 * b > 2 ^ 32 - 1 then .error (.baudRange b)
  else .ok (BitVec.ofNat 16 ((c + 8 * b) / (16 * b)))

/-- Character length in bits, 5 + LCR[1:0] (R201, R203, R204). -/
def charLength (lcr : Byte) : Nat := 5 + (lcr.extractLsb' 0 2).toNat

/-- `zext_8(c[w-1:0])` (R201). -/
def lowBits (c : Byte) (w : Nat) : Byte := c &&& BitVec.ofNat 8 (2 ^ w - 1)

/-- The parity part of a frame (R204): absent, computed from the data, or fixed by stick parity, whose sense
the spec does not give. -/
inductive ParityBit where
  | absent
  | value (b : Bool)
  | stick
  deriving DecidableEq, Repr

/-- One character on the line (R204): a start bit, the data bits least significant first, the parity bit, and
the stop time in half bits. -/
structure LineFrame where
  start : Bool
  data : List Bool
  parity : ParityBit
  stopHalfBits : Nat
  deriving DecidableEq, Repr

/-- The data bits in the order they are sent, least significant first (R204). -/
def dataBits (c : Byte) (w : Nat) : List Bool := (List.range w).map fun i => bitSet c i

/-- The frame of a transmitted character (R204, informative: no step depends on it). -/
def lineFrame (x : TxChar) : LineFrame :=
  let w := charLength x.lcr
  let data := dataBits x.char w
  let ones := (data.filter id).length
  { start := false
    data := data
    parity :=
      if !bitSet x.lcr 3 then .absent
      else if bitSet x.lcr 5 then .stick
      else if bitSet x.lcr 4 then .value (ones % 2 == 1)
      else .value (ones % 2 == 0)
    stopHalfBits := if !bitSet x.lcr 2 then 2 else if w = 5 then 3 else 4 }

end Sys2Proof.Machine
end

