-- ==== Sys2Proof/Machine/RegisterAccess.lean ====
section
/-! DEFINITION. The register-access instructions (40_register_access). `row…` is the instruction's rule behind
the gate check of 20_memory R68; `exec…` is the instruction made as one access at the register port. -/

namespace Sys2Proof.Machine

/-! ## Shared forms -/

/-- A 32-bit read of a stored byte: bits 31:8 are free (R27). -/
def readByteReg (s : State) (b : Byte) : BusResult :=
  .next (s.drew, some (s.free.extractLsb' 8 24 ++ b))

/-- A write that LCR_BUSY_GUARD loses while BUSY = 1 (R103, R107, R111). -/
def busyGuarded (s : State) (t : State) : BusResult :=
  if s.par.lcrBusyGuard && s.busy then .next (s, none) else .next (t, none)

/-- REF_UNMODELLED_REG at an offset (R108, R109, R112, R113, R115, R116, R117). -/
def refuseReg (off : Offset) : BusResult := .refused (.unmodelledReg off)

/-- REF_RESERVED_OFFSET (R120), behind the gate check for the access's direction. -/
def refuseReserved (off : Offset) (op : BusOp) (s : State) : BusResult :=
  match op with
  | .read => gated .read off .word s (.refused (.reservedOffset off))
  | .write _ => gated .write off .word s (.refused (.reservedOffset off))

/-! ## Offset 0x00 -/

/-- RD_RBR (R100). -/
def rowRdRbr (s : State) : BusResult :=
  gated .read 0x00#7 .word s <|
    match s.rxq with
    | [] => .fault (.rxUnderflow 0x00#7)
    | c :: q => readByteReg { s with rxq := q } c

/-- WR_THR (R101). -/
def rowWrThr (v : Word) (s : State) : BusResult :=
  gated .write 0x00#7 .word s <|
    if s.txq.length = s.par.txDepth then .fault (.txOverflow (lowByte v))
    else .next ({ s with txq := s.txq ++ [lowByte v] }, none)

/-- RD_DLL (R102). -/
def rowRdDll (s : State) : BusResult := gated .read 0x00#7 .word s (readByteReg s s.dll)

/-- WR_DLL (R103). -/
def rowWrDll (v : Word) (s : State) : BusResult :=
  gated .write 0x00#7 .word s (busyGuarded s { s with dll := lowByte v })

/-! ## Offset 0x04 -/

/-- RD_IER (R104). -/
def rowRdIer (s : State) : BusResult := gated .read 0x04#7 .word s (readByteReg s s.ier)

/-- WR_IER (R105). -/
def rowWrIer (v : Word) (s : State) : BusResult :=
  gated .write 0x04#7 .word s (.next ({ s with ier := lowByte v }, none))

/-- RD_DLH (R106). -/
def rowRdDlh (s : State) : BusResult := gated .read 0x04#7 .word s (readByteReg s s.dlh)

/-- WR_DLH (R107). -/
def rowWrDlh (v : Word) (s : State) : BusResult :=
  gated .write 0x04#7 .word s (busyGuarded s { s with dlh := lowByte v })

/-! ## Offsets 0x08 to 0x18 -/

/-- RD_IIR (R108): refused. -/
def rowRdIir (s : State) : BusResult := gated .read 0x08#7 .word s (refuseReg 0x08#7)

/-- WR_FCR (R109): refused. -/
def rowWrFcr (_v : Word) (s : State) : BusResult := gated .write 0x08#7 .word s (refuseReg 0x08#7)

/-- RD_LCR (R110). -/
def rowRdLcr (s : State) : BusResult := gated .read 0x0C#7 .word s (readByteReg s s.lcr)

/-- WR_LCR (R111). -/
def rowWrLcr (v : Word) (s : State) : BusResult :=
  gated .write 0x0C#7 .word s (busyGuarded s { s with lcr := lowByte v })

/-- RD_MCR (R112): refused. -/
def rowRdMcr (s : State) : BusResult := gated .read 0x10#7 .word s (refuseReg 0x10#7)

/-- WR_MCR (R113): refused. -/
def rowWrMcr (_v : Word) (s : State) : BusResult := gated .write 0x10#7 .word s (refuseReg 0x10#7)

/-- RD_LSR (R114): bit 0 is DR, bits 31:1 are free. -/
def rowRdLsr (s : State) : BusResult :=
  gated .read 0x14#7 .word s (readByteReg s (s.lsr (s.free.extractLsb' 0 7)))

/-- WR_LSR (R115): refused. -/
def rowWrLsr (_v : Word) (s : State) : BusResult := gated .write 0x14#7 .word s (refuseReg 0x14#7)

/-- RD_MSR (R116): refused. -/
def rowRdMsr (s : State) : BusResult := gated .read 0x18#7 .word s (refuseReg 0x18#7)

/-- WR_MSR (R117): refused. -/
def rowWrMsr (_v : Word) (s : State) : BusResult := gated .write 0x18#7 .word s (refuseReg 0x18#7)

/-! ## Offset 0x7C -/

/-- The bus width of a USR access. -/
def usrReadWidth : UsrWidth → Width
  | .byte => .byte
  | .word => .word

/-- The bus width of a USR write's value. -/
def usrWriteWidth : UsrValue → Width
  | .byte _ => .byte
  | .word _ => .word

/-- RD_USR (R118): bits 7:5 are free, and in a 32-bit read bits 31:8 too. -/
def rowRdUsr (n : UsrWidth) (s : State) : BusResult :=
  gated .read 0x7C#7 (usrReadWidth n) s <|
    match n with
    | .byte => .next (s.drew, some (byteWord (s.usr (s.free.extractLsb' 0 3))))
    | .word => readByteReg s (s.usr (s.free.extractLsb' 0 3))

/-- WR_USR (R119): refused. -/
def rowWrUsr (v : UsrValue) (s : State) : BusResult :=
  gated .write 0x7C#7 (usrWriteWidth v) s (.refused (.usrWrite v))

/-! ## The instructions as accesses at the register port -/

/-- RD_RBR. -/
def execRdRbr (s : State) : Outcome := deliver (rowRdRbr s)

/-- WR_THR. -/
def execWrThr (v : Word) (s : State) : Outcome := deliver (rowWrThr v s)

/-- RD_DLL. -/
def execRdDll (s : State) : Outcome := deliver (rowRdDll s)

/-- WR_DLL. -/
def execWrDll (v : Word) (s : State) : Outcome := deliver (rowWrDll v s)

/-- RD_IER. -/
def execRdIer (s : State) : Outcome := deliver (rowRdIer s)

/-- WR_IER. -/
def execWrIer (v : Word) (s : State) : Outcome := deliver (rowWrIer v s)

/-- RD_DLH. -/
def execRdDlh (s : State) : Outcome := deliver (rowRdDlh s)

/-- WR_DLH. -/
def execWrDlh (v : Word) (s : State) : Outcome := deliver (rowWrDlh v s)

/-- RD_IIR. -/
def execRdIir (s : State) : Outcome := deliver (rowRdIir s)

/-- WR_FCR. -/
def execWrFcr (v : Word) (s : State) : Outcome := deliver (rowWrFcr v s)

/-- RD_LCR. -/
def execRdLcr (s : State) : Outcome := deliver (rowRdLcr s)

/-- WR_LCR. -/
def execWrLcr (v : Word) (s : State) : Outcome := deliver (rowWrLcr v s)

/-- RD_MCR. -/
def execRdMcr (s : State) : Outcome := deliver (rowRdMcr s)

/-- WR_MCR. -/
def execWrMcr (v : Word) (s : State) : Outcome := deliver (rowWrMcr v s)

/-- RD_LSR. -/
def execRdLsr (s : State) : Outcome := deliver (rowRdLsr s)

/-- WR_LSR. -/
def execWrLsr (v : Word) (s : State) : Outcome := deliver (rowWrLsr v s)

/-- RD_MSR. -/
def execRdMsr (s : State) : Outcome := deliver (rowRdMsr s)

/-- WR_MSR. -/
def execWrMsr (v : Word) (s : State) : Outcome := deliver (rowWrMsr v s)

/-- RD_USR. -/
def execRdUsr (n : UsrWidth) (s : State) : Outcome := deliver (rowRdUsr n s)

/-- WR_USR. -/
def execWrUsr (v : UsrValue) (s : State) : Outcome := deliver (rowWrUsr v s)

/-- RSVD at 0x1C (R120): refused. -/
def execRsvd1C (op : BusOp) (s : State) : Outcome := deliver (refuseReserved 0x1C#7 op s)

/-- RSVD at 0x20 to 0x3C (R120): refused. -/
def execRsvd20 (off : Offset) (op : BusOp) (s : State) : Outcome := deliver (refuseReserved off op s)

/-- RSVD at 0x40 to 0x5C (R120): refused. -/
def execRsvd40 (off : Offset) (op : BusOp) (s : State) : Outcome := deliver (refuseReserved off op s)

/-- RSVD at 0x60 to 0x6C (R120): refused. -/
def execRsvd60 (off : Offset) (op : BusOp) (s : State) : Outcome := deliver (refuseReserved off op s)

/-- RSVD at 0x70 and 0x74 (R120): refused. -/
def execRsvd70 (off : Offset) (op : BusOp) (s : State) : Outcome := deliver (refuseReserved off op s)

/-- RSVD at 0x78 (R120): refused. -/
def execRsvd78 (op : BusOp) (s : State) : Outcome := deliver (refuseReserved 0x78#7 op s)

end Sys2Proof.Machine
end

