-- ==== Sys2Proof/Machine/Bus.lean ====
section
/-! DEFINITION. The common procedure of every access an engine agent issues (20_memory R68), and the two
primitives MemRead and MemWrite of 00_scope R9. -/

namespace Sys2Proof.Machine

/-- Run the row a key selected. A command is never selected by a key; its arm refuses the access. -/
def runRow (req : BusRequest) (i : Instr) (s : State) : BusResult :=
  match i with
  | .rdRbr => rowRdRbr s
  | .wrThr v => rowWrThr v s
  | .rdDll => rowRdDll s
  | .wrDll v => rowWrDll v s
  | .rdIer => rowRdIer s
  | .wrIer v => rowWrIer v s
  | .rdDlh => rowRdDlh s
  | .wrDlh v => rowWrDlh v s
  | .rdIir => rowRdIir s
  | .wrFcr v => rowWrFcr v s
  | .rdLcr => rowRdLcr s
  | .wrLcr v => rowWrLcr v s
  | .rdMcr => rowRdMcr s
  | .wrMcr v => rowWrMcr v s
  | .rdLsr => rowRdLsr s
  | .wrLsr v => rowWrLsr v s
  | .rdMsr => rowRdMsr s
  | .wrMsr v => rowWrMsr v s
  | .rdUsr n => rowRdUsr n s
  | .wrUsr v => rowWrUsr v s
  | .rsvd1C op => refuseReserved 0x1C#7 op s
  | .rsvd20 off op => refuseReserved off op s
  | .rsvd40 off op => refuseReserved off op s
  | .rsvd60 off op => refuseReserved off op s
  | .rsvd70 off op => refuseReserved off op s
  | .rsvd78 op => refuseReserved 0x78#7 op s
  | .configure _ _ _ _ | .writeByte _ | .flush | .readByte | .release | .split =>
    .refused (.badAccess req.dir req.off req.n)

/-- The instruction an access selects in a state: the shape check, then the key with DLAB = LCR[7] (R68). The
gate check of R68 stands in front of every row's rule (assumption 19). -/
def selectRow (req : BusRequest) (s : State) : Except Refusal Instr :=
  if admittedShape req.off req.n then
    match decodeKey (accessKey req.dir req.off req.n s.dlab) req.v with
    | .ok i => .ok i
    | .error _ => .error (.badAccess req.dir req.off req.n)
  else .error (.badAccess req.dir req.off req.n)

/-- `access(dir, off, n, v)` (R68). -/
def busAccess (req : BusRequest) (s : State) : BusResult :=
  match selectRow req s with
  | .ok i => runRow req i s
  | .error r => .refused r

/-- An access at a physical address: it reaches the block or it is the platform's (R60, R63). -/
def accessAt (addr : Nat) (dir : Dir) (n : Width) (v : Word) (s : State) : BusResult :=
  match offsetOf s.par addr with
  | some off => busAccess ⟨dir, off, n, v⟩ s
  | none => .refused (.outsideBlock addr)

/-- `MemRead(off, n)` (R9): the value read, zero-extended to 32 bits. -/
def memRead (off : Offset) (n : Width) (s : State) : Host.Outcome (State × Word) Fault Refusal :=
  andThen (accessAt (addressOf s.par off) .read n 0 s) fun p =>
    match p.2 with
    | some w => .next (p.1, w)
    | none => .refused (.badAccess .read off n)

/-- `MemWrite(off, n, v)` (R9). -/
def memWrite (off : Offset) (n : Width) (v : Word) (s : State) : Outcome :=
  andThen (accessAt (addressOf s.par off) .write n v s) fun p => .next p.1

end Sys2Proof.Machine
end

