-- ==== Sys2Proof/Machine/PollEngine.lean ====
section
/-! DEFINITION. The engine's commands (42_poll_engine R160 to R167). A meaning is ONE step of the agent
`cur`: the checks of the fetch when its phase is IDLE, else the phase it is in. -/

namespace Sys2Proof.Machine

/-! ## Admission (R160, R167) -/

/-- The commands by name (R85). -/
inductive CommandOp where
  | configure
  | writeByte
  | flush
  | readByte
  | release
  | split
  deriving DecidableEq, Repr

/-- OP of a command (R85). -/
def CommandOp.code : CommandOp → BitVec 4
  | .configure => 0x1
  | .writeByte => 0x2
  | .flush => 0x3
  | .readByte => 0x4
  | .release => 0x5
  | .split => 0x6

/-- The admission table (R167). -/
def admitted (a : EngineId) (hs : HandleState) (op : CommandOp) : Bool :=
  match a, hs with
  | .eng, .unbound => op == .configure
  | .eng, .serial => op == .writeByte || op == .flush || op == .readByte || op == .release || op == .split
  | .engTx, .split => op == .writeByte || op == .flush
  | .engRx, .split => op == .readByte
  | _, _ => false

/-- The admission check of the fetch (R160). -/
def whenAdmitted (op : CommandOp) (s : State) (k : Outcome) : Outcome :=
  if admitted s.cur s.hs op then k
  else .refused (.wrongHandleState s.cur (.notAdmitted s.hs op.code))

/-- A command in a phase that is none of its own (assumption 10). -/
def wrongPhase (s : State) : Outcome := .refused (.phaseMismatch s.cur s.self.phase)

/-! ## Steps shared by CONFIGURE's phases -/

/-- `A.t <- MemRead(off, 4)`, then the next phase. -/
def readT (off : Offset) (p : Phase) (s : State) : Outcome :=
  andThen (memRead off .word s) fun r => .next ((r.1.setT r.2).toPhase p)

/-- `MemWrite(off, 4, zext_32(b))`, then the next phase. -/
def writeReg (off : Offset) (b : Byte) (p : Phase) (s : State) : Outcome :=
  andThen (memWrite off .word (byteWord b) s) fun t => .next (t.toPhase p)

/-- Go on with the divisor, or refuse as DIVISOR refuses (R143). -/
def withDivisor (s : State) (baud : Word) (k : Divisor → Outcome) : Outcome :=
  match divisor (currentFrequency s) baud.toNat with
  | .ok d => k d
  | .error r => .refused r

/-! ## The commands -/

/-- CONFIGURE (R161). -/
def execConfigure (wl : WordLength) (st : StopBits) (par : Parity) (baud : Word) (s : State) : Outcome :=
  match s.self.phase with
  | .idle => whenAdmitted .configure s (withDivisor s baud fun _ => .next (s.toPhase .cfGate))
  | .cfGate => .next ((gateReset s.par.gateId s).toPhase .cfIerRd)
  | .cfIerRd => readT 0x04#7 .cfIerWr s
  | .cfIerWr => writeReg 0x04#7 (lowByte s.self.t &&& 0xF0#8) .cfDiv s
  | .cfDiv => withDivisor s baud fun d => .next ((s.setD d).toPhase .cfLcrRd1)
  | .cfLcrRd1 => readT 0x0C#7 .cfLcrSet s
  | .cfLcrSet => writeReg 0x0C#7 (lowByte s.self.t ||| 0x80#8) .cfDll s
  | .cfDll => writeReg 0x00#7 (s.self.d.extractLsb' 0 8) .cfDlh s
  | .cfDlh => writeReg 0x04#7 (s.self.d.extractLsb' 8 8) .cfLcrClr s
  | .cfLcrClr => writeReg 0x0C#7 (lowByte s.self.t &&& 0x7F#8) .cfLcrRd2 s
  | .cfLcrRd2 => readT 0x0C#7 .cfLcrWr s
  | .cfLcrWr =>
    andThen
      (memWrite 0x0C#7 .word
        (byteWord ((lowByte s.self.t &&& 0xC0#8) ||| (lcrEncode wl st par).setWidth 8)) s)
      fun t => .next (State.complete { t with hs := .serial } 2)
  | _ => wrongPhase s

/-- Whether the status byte shows room (R162): BUSY = 0, or TFNF = 1, as TX_POLL says. -/
def txReady (p : TxPoll) (u : Byte) : Bool :=
  match p with
  | .busy => !(statusDecode u).busy
  | .tfnf => (statusDecode u).transmitFifoNotFull

/-- WRITE_BYTE (R162). -/
def execWriteByte (b : Byte) (s : State) : Outcome :=
  match s.self.phase with
  | .idle => whenAdmitted .writeByte s (.next (s.toPhase .wbPoll))
  | .wbPoll =>
    andThen (memRead 0x7C#7 .byte s) fun r =>
      if txReady s.par.txPoll (lowByte r.2) then .next (r.1.toPhase .wbPush) else .next r.1
  | .wbPush => andThen (memWrite 0x00#7 .word (byteWord b) s) fun t => .next (t.complete 1)
  | _ => wrongPhase s

/-- FLUSH (R163). -/
def execFlush (s : State) : Outcome :=
  match s.self.phase with
  | .idle => whenAdmitted .flush s (.next (s.toPhase .flPoll))
  | .flPoll =>
    andThen (memRead 0x7C#7 .byte s) fun r =>
      if (statusDecode (lowByte r.2)).transmitFifoEmpty then .next (r.1.complete 1) else .next r.1
  | _ => wrongPhase s

/-- READ_BYTE (R164). -/
def execReadByte (s : State) : Outcome :=
  match s.self.phase with
  | .idle => whenAdmitted .readByte s (.next (s.toPhase .rbPoll))
  | .rbPoll =>
    andThen (memRead 0x14#7 .word s) fun r =>
      if bitSet r.2 0 then .next (r.1.toPhase .rbPop) else .next r.1
  | .rbPop =>
    andThen (memRead 0x00#7 .word s) fun r => .next ((r.1.deliverByte (lowByte r.2)).complete 1)
  | _ => wrongPhase s

/-- RELEASE (R165). -/
def execRelease (s : State) : Outcome :=
  match s.self.phase with
  | .idle => whenAdmitted .release s (.next (s.toPhase .rlGate))
  | .rlGate => .next (State.complete { gateFree s.par.gateId s with hs := .unbound } 1)
  | _ => wrongPhase s

/-- SPLIT (R166): it must be the program's last word (R160). -/
def execSplit (s : State) : Outcome :=
  match s.self.phase with
  | .idle =>
    whenAdmitted .split s <|
      if s.self.cp + 1 < s.self.prog.length then
        .refused (.wrongHandleState s.cur (.splitNotLast (s.self.cp + 1)))
      else .next (s.toPhase .spDo)
  | .spDo =>
    .next ((((State.complete { s with hs := .split } 1).setLive .eng false).setLive .engTx true).setLive
      .engRx true)
  | _ => wrongPhase s

end Sys2Proof.Machine
end

