-- ==== Sys2Proof/Machine/Dispatch.lean ====
section
/-! DEFINITION. One arm per instruction. -/

namespace Sys2Proof.Machine

def exec (i : Instr) (s : State) : Host.Outcome State Fault Refusal :=
  match i with
  | .rdRbr => Sys2Proof.Machine.execRdRbr s
  | .wrThr v => Sys2Proof.Machine.execWrThr v s
  | .rdDll => Sys2Proof.Machine.execRdDll s
  | .wrDll v => Sys2Proof.Machine.execWrDll v s
  | .rdIer => Sys2Proof.Machine.execRdIer s
  | .wrIer v => Sys2Proof.Machine.execWrIer v s
  | .rdDlh => Sys2Proof.Machine.execRdDlh s
  | .wrDlh v => Sys2Proof.Machine.execWrDlh v s
  | .rdIir => Sys2Proof.Machine.execRdIir s
  | .wrFcr v => Sys2Proof.Machine.execWrFcr v s
  | .rdLcr => Sys2Proof.Machine.execRdLcr s
  | .wrLcr v => Sys2Proof.Machine.execWrLcr v s
  | .rdMcr => Sys2Proof.Machine.execRdMcr s
  | .wrMcr v => Sys2Proof.Machine.execWrMcr v s
  | .rdLsr => Sys2Proof.Machine.execRdLsr s
  | .wrLsr v => Sys2Proof.Machine.execWrLsr v s
  | .rdMsr => Sys2Proof.Machine.execRdMsr s
  | .wrMsr v => Sys2Proof.Machine.execWrMsr v s
  | .rdUsr n => Sys2Proof.Machine.execRdUsr n s
  | .wrUsr v => Sys2Proof.Machine.execWrUsr v s
  | .rsvd1C op => Sys2Proof.Machine.execRsvd1C op s
  | .rsvd20 off op => Sys2Proof.Machine.execRsvd20 off op s
  | .rsvd40 off op => Sys2Proof.Machine.execRsvd40 off op s
  | .rsvd60 off op => Sys2Proof.Machine.execRsvd60 off op s
  | .rsvd70 off op => Sys2Proof.Machine.execRsvd70 off op s
  | .rsvd78 op => Sys2Proof.Machine.execRsvd78 op s
  | .configure wl st par baud => Sys2Proof.Machine.execConfigure wl st par baud s
  | .writeByte b => Sys2Proof.Machine.execWriteByte b s
  | .flush => Sys2Proof.Machine.execFlush s
  | .readByte => Sys2Proof.Machine.execReadByte s
  | .release => Sys2Proof.Machine.execRelease s
  | .split => Sys2Proof.Machine.execSplit s

end Sys2Proof.Machine
end

