-- ==== Sys2Proof/Machine/LineAgents.lean ====
section
/-! DEFINITION. The line-side agents (43_line_agents R200 to R203, R206): when each of their steps is enabled
and what it does. -/

namespace Sys2Proof.Machine

/-- TXL_LOAD is enabled (R200, R206). -/
def State.canLoad (s : State) : Bool := s.gate == .on && s.txsh.isNone && !s.txq.isEmpty

/-- TXL_SEND is enabled (R201, R206). -/
def State.canSend (s : State) : Bool := s.gate == .on && s.txsh.isSome

/-- RXL_START is enabled (R202, R206). -/
def State.canStart (s : State) : Bool := s.gate == .on && !s.rxActive

/-- RXL_DONE is enabled (R203, R206). -/
def State.canReceive (s : State) : Bool := s.gate == .on && s.rxActive

/-- TXL_LOAD (R200): the head of the transmit FIFO goes to the shift stage with the LCR and divisor of now. -/
def txlLoad (s : State) : Outcome :=
  match s.txq with
  | c :: q => .next { s with txsh := some ⟨c, s.lcr, s.dlh ++ s.dll⟩, txq := q }
  | [] => .next s

/-- TXL_SEND (R201): the low bits of the character go on the line. -/
def txlSend (s : State) : Outcome :=
  match s.txsh with
  | some x =>
    .next { s with lineOut := s.lineOut ++ [⟨lowBits x.char (charLength x.lcr), x.lcr, x.div⟩], txsh := none }
  | none => .next s

/-- RXL_START (R202). -/
def rxlStart (s : State) : Outcome := .next { s with rxActive := true }

/-- RXL_DONE (R203): the character is a free value. -/
def rxlDone (s : State) : Outcome :=
  let c : Byte := s.free.extractLsb' 0 8
  if s.rxq.length = s.par.rxDepth then .fault (.rxOverrun c)
  else .next (State.drew { s with rxq := s.rxq ++ [c], rxActive := false })

/-- The transmitter's step: SEND with a character in the shift stage, else LOAD. -/
def transmitterStep (s : State) : Outcome := if s.txsh.isSome then txlSend s else txlLoad s

/-- The receiver's step: DONE with a character arriving, else START. -/
def receiverStep (s : State) : Outcome := if s.rxActive then rxlDone s else rxlStart s

end Sys2Proof.Machine
end

