-- ==== Sys2Proof/Machine/Sequencer.lean ====
section
/-! DEFINITION. Which agent steps and what its step is: the fetch of a command word (42_poll_engine R160), the
access at the register port, the choice among the agents (20_memory R69), quiescence (60_exceptions R226),
and the placing of an instruction where the next step takes it. -/

namespace Sys2Proof.Machine

/-! ## Enabled agents -/

/-- An engine agent has a step: it is live, and it is inside a command or has a word left (R160, R38). -/
def Engine.ready (e : Engine) : Bool := e.live && (e.phase != .idle || decide (e.cp < e.prog.length))

/-- Whether an agent has a step, marks apart (R160, R200 to R203, R206). -/
def State.enabled (s : State) : Agent → Bool
  | .engine e => (s.engine e).ready
  | .transmitter => s.canSend || s.canLoad
  | .receiver => s.canStart || s.canReceive

/-- Who may step when an agent is asked: that agent, else the engine agents in a fixed cyclic order. A line
agent steps only when it is asked: when it moves is the line's choice, and no step of it is required (R202, R205). -/
def agentsFrom : Agent → List Agent
  | .engine .eng => [.engine .eng, .engine .engTx, .engine .engRx]
  | .engine .engTx => [.engine .engTx, .engine .engRx, .engine .eng]
  | .engine .engRx => [.engine .engRx, .engine .eng, .engine .engTx]
  | .transmitter => [.transmitter, .engine .eng, .engine .engTx, .engine .engRx]
  | .receiver => [.receiver, .engine .eng, .engine .engTx, .engine .engRx]

/-- The agent that steps, if any: the one asked, or an engine agent that has a step (assumption 5). -/
def State.chosen (s : State) : Option Agent := (agentsFrom s.turn).find? s.enabled

/-! ## Steps -/

/-- The command words from the agent's command pointer on. -/
def Engine.words (e : Engine) : List Word := e.prog.drop e.cp

/-- The step of an engine agent: decode the command at its pointer (R87, R160) and execute it. -/
def engineStep (e : EngineId) (s : State) : Outcome :=
  match decodeCommand (s.engine e).words with
  | .ok i => exec i { s with cur := e }
  | .error _ => .refused (.reservedCmd e (s.engine e).cp ((s.engine e).words.headD 0))

/-- The access presented at the register port: select its row (R68) and execute it (assumption 7). -/
def portStep (req : BusRequest) (s : State) : Outcome :=
  match selectRow req s with
  | .ok i => exec i { s with port := none }
  | .error r => .refused r

/-- The step of an agent. -/
def agentStep (a : Agent) (s : State) : Outcome :=
  match a with
  | .engine e => engineStep e s
  | .transmitter => transmitterStep s
  | .receiver => receiverStep s

/-- After a step the step counter advances and the next agent asked is a free value (assumption 5). -/
def State.advanced (s : State) : State := { s with tick := s.tick + 1, turn := Config.schedule s.tick }

/-- A step's bookkeeping around what the agent did. -/
def afterStep (o : Outcome) : Outcome := andThen o fun t => .next t.advanced

/-- One step of the machine: a marked state stays as it is (R226); else the access at the port, or the chosen
agent's step. Where none is chosen the machine idles: only the next agent to be asked changes (assumption 5). -/
def sequencerStep (s : State) : Outcome :=
  if s.marked then .next s
  else
    match s.port with
    | some req => afterStep (portStep req s)
    | none =>
      match s.chosen with
      | some a => afterStep (agentStep a s)
      | none => .next s.advanced

/-! ## Placing an instruction -/

/-- What must hold for the next step to run anything: no mark stands. -/
def State.unmarked (s : State) : State := { s with faults := [], refused := [] }

/-- An access with this key presented at the port: the gate is ON and LCR[7] is the key's DLAB, since only
then does the access select the key's row (R68, R80). SIZE 0b11 is produced by no access. -/
def placeKey (s : State) (k : AccessKey) : State :=
  match Width.ofCode (k.extractLsb' 9 2) with
  | some n =>
    { s.unmarked with
      gate := .on
      lcr := BitVec.ofBool (bitSet k 8) ++ s.lcr.extractLsb' 0 7
      port := some ⟨Dir.ofBit (bitSet k 7), keyOff k, n, 0⟩ }
  | none => s

/-- The handle and gate in which ENG's fetch admits a command of this OP (R160, R167): CONFIGURE without a
handle, the others with one, whose gate is ON. -/
def State.admitting (s : State) (op : BitVec 4) : State :=
  if op = 0x1 then { s with hs := .unbound } else { s with hs := .serial, gate := .on }

/-- A program of one command placed as P_main, ENG at its first word and asked next. -/
def placeCommand (s : State) (ws : List Word) : State :=
  State.admitting
    { s.unmarked with
      eng := { s.eng with prog := ws, cp := 0, phase := .idle, live := true }
      turn := .engine .eng
      port := none }
    (opField (ws.headD 0))

/-- The instruction whose table bits are `w`, placed where the next step takes it. -/
def placeWord (s : State) (nbits w : Nat) : State :=
  if nbits ≤ 16 then
    if w < 2 ^ 11 then placeKey s (BitVec.ofNat 11 w) else s
  else placeCommand s (tableCommandWords w)

end Sys2Proof.Machine
end

