-- ==== Sys2Proof/Machine/Step.lean ====
section
/-! DEFINITION. The machine's step, and where the host places an instruction. Everything either does stands
in Machine/Sequencer.lean. -/

namespace Sys2Proof.Machine

/-- One step of the machine (00_scope R10). -/
def step (s : State) : Host.Outcome State Fault Refusal := Sys2Proof.Machine.sequencerStep s

/-- The state in which the next step runs the instruction whose table bits are `w` (assumption 8). -/
def State.withFetchWord (s : State) (nbits w : Nat) : State := Sys2Proof.Machine.placeWord s nbits w

end Sys2Proof.Machine
end

