-- ==== Sys2Proof/Safety.lean ====
section
/-! DEFINITION. What claims are stated in terms of: final states and their observation (42_poll_engine R173),
runs with their marks (60_exceptions R226), fairness of the line agents (43_line_agents R205), and the
invariants of the machine. -/

namespace Sys2Proof.Safety

open Sys2Proof.Machine

/-! ## Runs -/

/-- The machine's transition with the stop recorded: the next state, or the state with the stop's mark. -/
def advance (s : State) : State := s.settle (step s)

/-- The agent whose step `step` takes, if any (a state with a mark or an access at the port takes none). -/
def stepAgent (s : State) : Option Agent := if s.marked || s.port.isSome then none else s.chosen

/-- The state with an agent asked for its next step. -/
def asking (s : State) (a : Agent) : State := { s with turn := a }

/-- A run under a schedule: each state is the transition of the one before, with the agent the schedule asks.
The runs of the machine are those of every schedule (R69, R227); `step`'s own is the free `Config.schedule`. -/
def IsRun (ask : Nat → Agent) (r : Nat → State) : Prop := ∀ n, r (n + 1) = advance (asking (r n) (ask n))

/-- Weak fairness: an agent that is owed a step from some point on takes one after it. -/
def WeaklyFair (ask : Nat → Agent) (r : Nat → State) (a : Agent) (owed : State → Prop) : Prop :=
  ∀ n, (∀ m, n ≤ m → owed (r m)) → ∃ m, n ≤ m ∧ stepAgent (asking (r m) (ask m)) = some a

/-- TXL_LOAD is owed a step: no mark stands, it is enabled and the latches' divisor is not 0 (R205, R226). -/
def loadOwed (s : State) : Prop := s.marked = false ∧ s.canLoad = true ∧ s.div ≠ 0

/-- TXL_SEND is owed a step: no mark stands, it is enabled and the captured divisor is not 0 (R205, R226). -/
def sendOwed (s : State) : Prop := s.marked = false ∧ s.gate = .on ∧ ∃ x, s.txsh = some x ∧ x.div ≠ 0

/-- RXL_DONE is owed a step: no mark stands, it is enabled and the latches' divisor is not 0 (R205, R226). -/
def doneOwed (s : State) : Prop := s.marked = false ∧ s.canReceive = true ∧ s.div ≠ 0

/-- The fairness of the line agents (R205): TXL_LOAD, TXL_SEND and RXL_DONE, never RXL_START. A run need not
have it; a claim about progress takes it as a premise (assumption 12). -/
def LineFair (ask : Nat → Agent) (r : Nat → State) : Prop :=
  WeaklyFair ask r .transmitter loadOwed ∧ WeaklyFair ask r .transmitter sendOwed ∧
    WeaklyFair ask r .receiver doneOwed

/-! ## Final states (R173) -/

/-- An engine agent has no step left. -/
def engineDone (e : Engine) : Bool := !e.live || (e.phase == .idle && decide (e.prog.length ≤ e.cp))

/-- A final state (R173). -/
def final (s : State) : Bool :=
  engineDone s.eng && engineDone s.engTx && engineDone s.engRx && s.faults.isEmpty && s.refused.isEmpty

/-- The observation of a final state (R173). -/
structure Observation where
  hs : HandleState
  out : List Byte
  outTx : List Byte
  outRx : List Byte
  lineOut : List TxChar
  ier : Byte
  lcr : Byte
  dll : Byte
  dlh : Byte
  txq : List Byte
  txsh : Option TxChar
  rxq : List Byte
  deriving DecidableEq, Repr

/-- What a final state shows (R173). -/
def observe (s : State) : Observation where
  hs := s.hs
  out := s.eng.out
  outTx := s.engTx.out
  outRx := s.engRx.out
  lineOut := s.lineOut
  ier := s.ier
  lcr := s.lcr
  dll := s.dll
  dlh := s.dlh
  txq := s.txq
  txsh := s.txsh
  rxq := s.rxq

/-! ## Commands and accesses by their rules -/

/-- The command an instruction is (R85); none for an access. -/
def opOf : Instr → Option CommandOp
  | .configure _ _ _ _ => some .configure
  | .writeByte _ => some .writeByte
  | .flush => some .flush
  | .readByte => some .readByte
  | .release => some .release
  | .split => some .split
  | _ => none

/-- The first phase of a command (R160 to R166). -/
def firstPhase : CommandOp → Phase
  | .configure => .cfGate
  | .writeByte => .wbPoll
  | .flush => .flPoll
  | .readByte => .rbPoll
  | .release => .rlGate
  | .split => .spDo

/-- What the fetch refuses after admission (R160): a divisor that cannot be had, a SPLIT before the last word. -/
def fetchRefusal (c : Nat) (a : EngineId) (e : Engine) : Instr → Option Refusal
  | .configure _ _ _ baud =>
    match divisor c baud.toNat with
    | .ok _ => none
    | .error r => some r
  | .split =>
    if e.cp + 1 < e.prog.length then some (.wrongHandleState a (.splitNotLast (e.cp + 1))) else none
  | _ => none

/-- A reserved or illegal command encoding, `rest` being the words after it (R87). -/
def illegalCommand (w : Word) (rest : List Word) : Bool :=
  if w.extractLsb' 28 4 = 0x1 then w.extractLsb' 0 23 != 0 || w.extractLsb' 23 2 == 0b11 || rest.isEmpty
  else if w.extractLsb' 28 4 = 0x2 then w.extractLsb' 8 20 != 0
  else if 0x3 ≤ w.extractLsb' 28 4 ∧ w.extractLsb' 28 4 ≤ 0x6 then w.extractLsb' 0 28 != 0
  else true

/-- Direction, offset and width of the access an instruction is (R82); none for a command. -/
def busShape : Instr → Option (Dir × Offset × Width)
  | .rdRbr | .rdDll => some (.read, 0x00, .word)
  | .wrThr _ | .wrDll _ => some (.write, 0x00, .word)
  | .rdIer | .rdDlh => some (.read, 0x04, .word)
  | .wrIer _ | .wrDlh _ => some (.write, 0x04, .word)
  | .rdIir => some (.read, 0x08, .word)
  | .wrFcr _ => some (.write, 0x08, .word)
  | .rdLcr => some (.read, 0x0C, .word)
  | .wrLcr _ => some (.write, 0x0C, .word)
  | .rdMcr => some (.read, 0x10, .word)
  | .wrMcr _ => some (.write, 0x10, .word)
  | .rdLsr => some (.read, 0x14, .word)
  | .wrLsr _ => some (.write, 0x14, .word)
  | .rdMsr => some (.read, 0x18, .word)
  | .wrMsr _ => some (.write, 0x18, .word)
  | .rdUsr .byte => some (.read, 0x7C, .byte)
  | .rdUsr .word => some (.read, 0x7C, .word)
  | .wrUsr (.byte _) => some (.write, 0x7C, .byte)
  | .wrUsr (.word _) => some (.write, 0x7C, .word)
  | .rsvd1C .read => some (.read, 0x1C, .word)
  | .rsvd1C (.write _) => some (.write, 0x1C, .word)
  | .rsvd20 off .read | .rsvd40 off .read | .rsvd60 off .read | .rsvd70 off .read =>
    some (.read, off, .word)
  | .rsvd20 off (.write _) | .rsvd40 off (.write _) | .rsvd60 off (.write _) | .rsvd70 off (.write _) =>
    some (.write, off, .word)
  | .rsvd78 .read => some (.read, 0x78, .word)
  | .rsvd78 (.write _) => some (.write, 0x78, .word)
  | .configure _ _ _ _ | .writeByte _ | .flush | .readByte | .release | .split => none

/-! ## Invariants -/

/-- The FIFOs hold at most their depths (R28, R30). -/
structure FifoBounds (s : State) : Prop where
  tx : s.txq.length ≤ s.par.txDepth
  rx : s.rxq.length ≤ s.par.rxDepth

/-- The phases of CONFIGURE in which the gate has been reset and the divisor latch low not yet written. -/
def beforeDll (p : Phase) : Bool :=
  p == .cfIerRd || p == .cfIerWr || p == .cfDiv || p == .cfLcrRd1 || p == .cfLcrSet || p == .cfDll

/-- The phases of CONFIGURE after the gate reset (R161). -/
def afterGate (p : Phase) : Bool :=
  beforeDll p || p == .cfDlh || p == .cfLcrClr || p == .cfLcrRd2 || p == .cfLcrWr

/-- The phases of each command (R161 to R166). -/
def phaseOf (i : Instr) (p : Phase) : Bool :=
  match i with
  | .configure _ _ _ _ => p == .cfGate || afterGate p
  | .writeByte _ => p == .wbPoll || p == .wbPush
  | .flush => p == .flPoll
  | .readByte => p == .rbPoll || p == .rbPop
  | .release => p == .rlGate
  | .split => p == .spDo
  | _ => false

/-- The commands an engine agent may be inside of in a handle state (R167). -/
def mayRun (a : EngineId) (hs : HandleState) (i : Instr) : Bool :=
  match i with
  | .configure _ _ _ _ => admitted a hs .configure
  | .writeByte _ => admitted a hs .writeByte
  | .flush => admitted a hs .flush
  | .readByte => admitted a hs .readByte
  | .release => admitted a hs .release
  | .split => admitted a hs .split
  | _ => false

/-- The checks of CONFIGURE's fetch that hold to its end: DIVISOR does not refuse (R160). -/
def baudAccepted (c : Nat) (i : Instr) : Prop :=
  match i with
  | .configure _ _ _ baud => ∃ d, divisor c baud.toNat = .ok d
  | _ => True

/-- An agent inside a command is inside the command at its pointer, one its handle state admits. -/
def CommandAtPointer (s : State) (a : EngineId) : Prop :=
  (s.engine a).phase ≠ .idle →
    ∃ i, decodeCommand (s.engine a).words = .ok i ∧ phaseOf i (s.engine a).phase = true ∧
      mayRun a s.hs i = true ∧ baudAccepted s.par.clkHz i

/-- What the machine keeps in every run from launch: the agents that live in each handle state (R36, R166),
the gate ON for a handle and after CF_GATE (R257), each agent inside the command at its pointer, room and
data where a poll has seen them (R259), and no access at the port (R6). -/
structure RunInvariant (s : State) : Prop where
  params : s.par.valid = true
  noPort : s.port = none
  liveEng : s.eng.live = (s.hs != .split)
  liveTx : s.engTx.live = (s.hs == .split)
  liveRx : s.engRx.live = (s.hs == .split)
  gateHandle : s.hs ≠ .unbound → s.gate = .on
  gateConfigure : afterGate s.eng.phase = true → s.gate = .on
  command : ∀ a, CommandAtPointer s a
  emptyBeforeDll : beforeDll s.eng.phase = true → s.txq = []
  room : ∀ a, (s.engine a).phase = .wbPush → s.txq.length < s.par.txDepth
  data : ∀ a, (s.engine a).phase = .rbPop → s.rxq ≠ []

/-- The registers a completed CONFIGURE leaves and no later command writes (R168, R256). -/
structure Configured (s : State) : Prop where
  ier : s.ier = 0x00
  lcr : ∃ wl st par, s.lcr = (lcrEncode wl st par).setWidth 8
  div : ∃ b, divisor s.par.clkHz b = .ok s.div

/-- What is known of the registers in each phase of CONFIGURE (R161), `t` and `d` being ENG's. -/
def configureProgress (s : State) : Prop :=
  match s.eng.phase with
  | .cfIerRd => s.ier = 0 ∧ s.lcr = 0
  | .cfIerWr => s.ier = 0 ∧ s.lcr = 0 ∧ lowByte s.eng.t = 0
  | .cfDiv => s.ier = 0 ∧ s.lcr = 0
  | .cfLcrRd1 => s.ier = 0 ∧ s.lcr = 0 ∧ ∃ b, divisor s.par.clkHz b = .ok s.eng.d
  | .cfLcrSet => s.ier = 0 ∧ s.lcr = 0 ∧ lowByte s.eng.t = 0 ∧ ∃ b, divisor s.par.clkHz b = .ok s.eng.d
  | .cfDll => s.ier = 0 ∧ s.lcr = 0x80 ∧ lowByte s.eng.t = 0 ∧ ∃ b, divisor s.par.clkHz b = .ok s.eng.d
  | .cfDlh =>
    s.ier = 0 ∧ s.lcr = 0x80 ∧ lowByte s.eng.t = 0 ∧ s.dll = s.eng.d.extractLsb' 0 8 ∧
      ∃ b, divisor s.par.clkHz b = .ok s.eng.d
  | .cfLcrClr =>
    s.ier = 0 ∧ s.lcr = 0x80 ∧ lowByte s.eng.t = 0 ∧ s.div = s.eng.d ∧
      ∃ b, divisor s.par.clkHz b = .ok s.eng.d
  | .cfLcrRd2 => s.ier = 0 ∧ s.lcr = 0 ∧ ∃ b, divisor s.par.clkHz b = .ok s.div
  | .cfLcrWr => s.ier = 0 ∧ s.lcr = 0 ∧ lowByte s.eng.t = 0 ∧ ∃ b, divisor s.par.clkHz b = .ok s.div
  | _ => s.hs ≠ .unbound → Configured s

/-- The register file follows CONFIGURE, and holds its result for the rest of the handle's life (R168, R256):
with LCR_BUSY_GUARD = false. -/
structure RegisterInvariant (s : State) : Prop where
  noGuard : s.par.lcrBusyGuard = false
  progress : configureProgress s

/-- Two states that differ at most in the model's own `cur` (assumption 9). -/
def SameUpToCur (s t : State) : Prop := { s with cur := .eng } = { t with cur := .eng }

/-- A number of steps of one command by the agent `cur`, stopping at a stop. -/
def execTimes (i : Instr) : Nat → State → Outcome
  | 0, s => .next s
  | k + 1, s => andThen (exec i s) (execTimes i k)

/-- A number of steps of the transmitter alone, stopping at a stop. -/
def transmitTimes : Nat → State → Outcome
  | 0, s => .next s
  | k + 1, s => andThen (transmitterStep s) (transmitTimes k)

end Sys2Proof.Safety
end

