-- ==== Sys2Proof/Certificates/Slice0/Obligations.lean ====
section
/-! DEFINITION. The statements for the provers. A read's value is where the model delivers it, `portData` (log 7);
a `draw` of the spec is the free value `s.free`, and `draws` counts those taken (log 4). -/

open Sys2Proof Sys2Proof.Machine Sys2Proof.Safety

/-! ## Encoding -/

/-- Tier 3: decoding the encoding of a well-formed instruction gives it back, every operand at every value
(R80, R82, R84 to R86). -/
def Obligations.DecodeOfEncode : Prop := ∀ i : Instr, i.wf = true → decode (encode i) = .ok i

/-- Tier 2: what the decoder accepts is well-formed, and encodes to the same row with the same operands (R82). -/
def Obligations.DecodedIsWellFormed : Prop :=
  ∀ (e : Encoding) (i : Instr), decode e = .ok i → i.wf = true ∧ decode (encode i) = .ok i

/-- R83: every key of an admitted access is in exactly one row, every other key in none (SIZE 0b11 among them),
and no two rows overlap. -/
def Obligations.KeysSelectOneRow : Prop :=
  (∀ (dir : Dir) (off : Offset) (n : Width) (dlab : Bool),
    (keyTable.filter (·.hits (accessKey dir off n dlab))).length = if admittedShape off n then 1 else 0) ∧
  (∀ k : AccessKey, k.extractLsb' 9 2 = 0b11 → ∀ v, decodeKey k v = .error (.badAccess k)) ∧
  (∀ k : AccessKey, (keyTable.filter (·.hits k)).length ≤ 1) ∧
  (∀ (k : AccessKey) (v : Word), (∃ i, decodeKey k v = .ok i) ∨ decodeKey k v = .error (.badAccess k))

/-- R81: DLAB selects RBR or THR against DLL at 0x00 and IER against DLH at 0x04; every other row masks it out. -/
def Obligations.DlabSelects : Prop :=
  (∀ v : Word,
    decodeKey (accessKey .read 0x00 .word false) v = .ok .rdRbr ∧
    decodeKey (accessKey .write 0x00 .word false) v = .ok (.wrThr v) ∧
    decodeKey (accessKey .read 0x00 .word true) v = .ok .rdDll ∧
    decodeKey (accessKey .write 0x00 .word true) v = .ok (.wrDll v) ∧
    decodeKey (accessKey .read 0x04 .word false) v = .ok .rdIer ∧
    decodeKey (accessKey .write 0x04 .word false) v = .ok (.wrIer v) ∧
    decodeKey (accessKey .read 0x04 .word true) v = .ok .rdDlh ∧
    decodeKey (accessKey .write 0x04 .word true) v = .ok (.wrDlh v)) ∧
  (∀ (dir : Dir) (off : Offset) (n : Width) (v : Word), off ≠ 0x00 → off ≠ 0x04 →
    (decodeKey (accessKey dir off n true) v).toOption = (decodeKey (accessKey dir off n false) v).toOption)

/-- R87: exactly the reserved and illegal encodings are refused, and at the agent's fetch with REF_RESERVED_CMD. -/
def Obligations.ReservedCommandsRefused : Prop :=
  (∀ (w : Word) (rest : List Word),
    decodeCommand (w :: rest) = .error (.reservedCmd w) ↔ illegalCommand w rest = true) ∧
  (∀ (w : Word) (rest : List Word), illegalCommand w rest = false → ∃ i, decodeCommand (w :: rest) = .ok i) ∧
  (∀ (e : EngineId) (s : State) (w : Word) (rest : List Word),
    (s.engine e).words = w :: rest → illegalCommand w rest = true →
      engineStep e s = .refused (.reservedCmd e (s.engine e).cp w))

/-- R88: the first word alone decides the length, and the decoder looks at no word beyond it. -/
def Obligations.LengthFromFirstWord : Prop :=
  (∀ w : Word, commandLength w = if w.extractLsb' 28 4 = 0x1 then 2 else 1) ∧
  (∀ (i : Instr) (ws : List Word), encode i = .command ws → ws.length = commandLength (ws.headD 0)) ∧
  (∀ (w : Word) (rest : List Word), decodeCommand (w :: rest) = decodeCommand ((w :: rest).take (commandLength w)))

/-- Tier 1: words written out from the spec's encodings decode to what they stand for. -/
def Obligations.SampleWordsDecode : Prop :=
  decodeTableWord 16 0x400 = some .rdRbr ∧
  decodeTableWord 16 0x58C = some (.wrLcr 0) ∧
  decodeTableWord 16 0x17C = some (.rdUsr .byte) ∧
  decodeTableWord 16 0x27C = none ∧
  decodeTableWord 32 0x20000048 = some (.writeByte 0x48) ∧
  decodeCommand [0x1C000000, 0x0001C200] = .ok (.configure .eight .one .none 115200)

/-! ## Accesses -/

/-- R100: RD_RBR pops the receive FIFO, and faults on an empty one; from a full FIFO RFF reads 0 after it. -/
def Obligations.ReadRbr : Prop :=
  (∀ v, decodeKey 0x400 v = .ok .rdRbr) ∧
  ∀ s : State, s.gate = .on →
    (∀ c q, s.rxq = c :: q →
      exec .rdRbr s = .next { s with
        rxq := q, draws := s.draws + 1, portData := s.free.extractLsb' 8 24 ++ c } ∧
      (s.rxq.length = s.par.rxDepth → State.rff { s with rxq := q } = false)) ∧
    (s.rxq = [] → exec .rdRbr s = .fault (.rxUnderflow 0x00))

/-- R101: WR_THR appends v[7:0], sets BUSY and clears TFE, and faults on a full FIFO. -/
def Obligations.WriteThr : Prop :=
  (∀ v, decodeKey 0x480 v = .ok (.wrThr v)) ∧
  ∀ (v : Word) (s : State), s.gate = .on →
    (s.txq.length ≠ s.par.txDepth → ∃ t, exec (.wrThr v) s = .next t ∧
      t = { s with txq := s.txq ++ [v.setWidth 8] } ∧ t.busy = true ∧ t.tfe = false ∧
      t.tfnf = decide (s.txq.length + 1 < s.par.txDepth)) ∧
    (s.txq.length = s.par.txDepth → exec (.wrThr v) s = .fault (.txOverflow (v.setWidth 8)))

/-- R102, R104, R106, R110: RD_DLL, RD_IER, RD_DLH and RD_LCR return the stored byte below 24 free bits and
change nothing. -/
def Obligations.ReadStoredRegisters : Prop :=
  (∀ v, decodeKey 0x500 v = .ok .rdDll ∧ decodeKey 0x404 v = .ok .rdIer ∧ decodeKey 0x504 v = .ok .rdDlh ∧
    decodeKey 0x40C v = .ok .rdLcr ∧ decodeKey 0x50C v = .ok .rdLcr) ∧
  ∀ s : State, s.gate = .on →
    exec .rdDll s = .next { s with draws := s.draws + 1, portData := s.free.extractLsb' 8 24 ++ s.dll } ∧
    exec .rdIer s = .next { s with draws := s.draws + 1, portData := s.free.extractLsb' 8 24 ++ s.ier } ∧
    exec .rdDlh s = .next { s with draws := s.draws + 1, portData := s.free.extractLsb' 8 24 ++ s.dlh } ∧
    exec .rdLcr s = .next { s with draws := s.draws + 1, portData := s.free.extractLsb' 8 24 ++ s.lcr }

/-- R103, R105, R107, R111: WR_IER stores v[7:0]; WR_DLL, WR_DLH and WR_LCR do unless LCR_BUSY_GUARD loses the
write while BUSY = 1. -/
def Obligations.WriteStoredRegisters : Prop :=
  (∀ v, decodeKey 0x580 v = .ok (.wrDll v) ∧ decodeKey 0x484 v = .ok (.wrIer v) ∧
    decodeKey 0x584 v = .ok (.wrDlh v) ∧ decodeKey 0x48C v = .ok (.wrLcr v) ∧
    decodeKey 0x58C v = .ok (.wrLcr v)) ∧
  ∀ (v : Word) (s : State), s.gate = .on →
    exec (.wrIer v) s = .next { s with ier := v.setWidth 8 } ∧
    ((s.par.lcrBusyGuard && s.busy) = true →
      exec (.wrDll v) s = .next s ∧ exec (.wrDlh v) s = .next s ∧ exec (.wrLcr v) s = .next s) ∧
    ((s.par.lcrBusyGuard && s.busy) = false →
      exec (.wrDll v) s = .next { s with dll := v.setWidth 8 } ∧
      exec (.wrDlh v) s = .next { s with dlh := v.setWidth 8 } ∧
      exec (.wrLcr v) s = .next { s with lcr := v.setWidth 8 })

/-- R114: RD_LSR returns DR in bit 0, every other bit free, and changes nothing. -/
def Obligations.ReadLsr : Prop :=
  (∀ v, decodeKey 0x414 v = .ok .rdLsr ∧ decodeKey 0x514 v = .ok .rdLsr) ∧
  ∀ s : State, s.gate = .on →
    exec .rdLsr s = .next { s with
      draws := s.draws + 1
      portData := s.free.extractLsb' 8 24 ++
        (s.free.extractLsb' 0 7 ++ BitVec.ofBool (decide (0 < s.rxq.length)) : BitVec 8) }

/-- R118, R31: RD_USR returns the five status bits of the state it reads, zero-extended at 8 bits and below 24
free bits at 32, and changes nothing. -/
def Obligations.ReadUsr : Prop :=
  (∀ v, decodeKey 0x07C v = .ok (.rdUsr .byte) ∧ decodeKey 0x17C v = .ok (.rdUsr .byte) ∧
    decodeKey 0x47C v = .ok (.rdUsr .word) ∧ decodeKey 0x57C v = .ok (.rdUsr .word)) ∧
  ∀ (n : UsrWidth) (s : State), s.gate = .on → ∃ (t : State) (u : Byte),
    exec (.rdUsr n) s = .next t ∧
    t = { s with draws := s.draws + 1, portData := t.portData } ∧
    t.portData = (match n with | .byte => 0 | .word => s.free.extractLsb' 8 24) ++ u ∧
    u.extractLsb' 5 3 = s.free.extractLsb' 0 3 ∧
    (bitSet u 0 = true ↔ 0 < s.txq.length ∨ s.txsh ≠ none ∨ s.rxActive = true) ∧
    (bitSet u 1 = true ↔ s.txq.length < s.par.txDepth) ∧
    (bitSet u 2 = true ↔ s.txq.length = 0) ∧
    (bitSet u 3 = true ↔ 0 < s.rxq.length) ∧
    (bitSet u 4 = true ↔ s.rxq.length = s.par.rxDepth)

/-- R108, R109, R112, R113, R115, R116, R117, R119, R120: the rows that are always refused, the gate being ON. -/
def Obligations.RefusedRowsStop : Prop :=
  (∀ v, [0x408, 0x488, 0x410, 0x490, 0x494, 0x418, 0x498].map (fun k => (decodeKey k v).toOption) =
    [some .rdIir, some (.wrFcr v), some .rdMcr, some (.wrMcr v), some (.wrLsr v), some .rdMsr,
      some (.wrMsr v)]) ∧
  (∀ v, [0x0FC, 0x4FC, 0x41C, 0x420, 0x45C, 0x4EC, 0x574, 0x4F8].map
      (fun k => (decodeKey k v).toOption) =
    [some (.wrUsr (.byte (v.setWidth 8))), some (.wrUsr (.word v)), some (.rsvd1C .read),
      some (.rsvd20 0x20 .read), some (.rsvd40 0x5C .read), some (.rsvd60 0x6C (.write v)),
      some (.rsvd70 0x74 .read), some (.rsvd78 (.write v))]) ∧
  ∀ (v : Word) (u : UsrValue) (op : BusOp) (off : Offset) (s : State), s.gate = .on →
    exec .rdIir s = .refused (.unmodelledReg 0x08) ∧
    exec (.wrFcr v) s = .refused (.unmodelledReg 0x08) ∧
    exec .rdMcr s = .refused (.unmodelledReg 0x10) ∧
    exec (.wrMcr v) s = .refused (.unmodelledReg 0x10) ∧
    exec (.wrLsr v) s = .refused (.unmodelledReg 0x14) ∧
    exec .rdMsr s = .refused (.unmodelledReg 0x18) ∧
    exec (.wrMsr v) s = .refused (.unmodelledReg 0x18) ∧
    exec (.wrUsr u) s = .refused (.usrWrite u) ∧
    exec (.rsvd1C op) s = .refused (.reservedOffset 0x1C) ∧
    exec (.rsvd20 off op) s = .refused (.reservedOffset off) ∧
    exec (.rsvd40 off op) s = .refused (.reservedOffset off) ∧
    exec (.rsvd60 off op) s = .refused (.reservedOffset off) ∧
    exec (.rsvd70 off op) s = .refused (.reservedOffset off) ∧
    exec (.rsvd78 op) s = .refused (.reservedOffset 0x78)

/-- R222: every access with the gate OFF faults with its direction, offset and width, the rows that are always
refused among them, and so do the accesses of WRITE_BYTE, FLUSH and READ_BYTE. -/
def Obligations.GatedAccessFaults : Prop :=
  (∀ (i : Instr) (dir : Dir) (off : Offset) (n : Width) (s : State),
    busShape i = some (dir, off, n) → s.gate = .off → exec i s = .fault (.gatedAccess dir off n)) ∧
  (∀ (b : Byte) (s : State), s.gate = .off →
    (s.self.phase = .wbPoll → exec (.writeByte b) s = .fault (.gatedAccess .read 0x7C .byte)) ∧
    (s.self.phase = .wbPush → exec (.writeByte b) s = .fault (.gatedAccess .write 0x00 .word)) ∧
    (s.self.phase = .flPoll → exec .flush s = .fault (.gatedAccess .read 0x7C .byte)) ∧
    (s.self.phase = .rbPoll → exec .readByte s = .fault (.gatedAccess .read 0x14 .word)) ∧
    (s.self.phase = .rbPop → exec .readByte s = .fault (.gatedAccess .read 0x00 .word)))

/-- R68: shape, then gate, then the row that the key with DLAB = LCR[7] is in; a stop leaves its mark and nothing
else. -/
def Obligations.AccessProcedure : Prop :=
  (∀ (req : BusRequest) (s : State),
    (admittedShape req.off req.n = false → busAccess req s = .refused (.badAccess req.dir req.off req.n)) ∧
    (admittedShape req.off req.n = true →
      (s.gate = .off → busAccess req s = .fault (.gatedAccess req.dir req.off req.n)) ∧
      (s.gate = .on → ∃ i, decodeKey (accessKey req.dir req.off req.n (bitSet s.lcr 7)) req.v = .ok i ∧
        busAccess req s = runRow req i s))) ∧
  (∀ (s : State) (f : Fault), f ∈ (s.settle (.fault f)).faults ∧
    s.settle (.fault f) = { s with faults := (s.settle (.fault f)).faults }) ∧
  (∀ (s : State) (r : Refusal), r ∈ (s.settle (.refused r)).refused ∧
    s.settle (.refused r) = { s with refused := (s.settle (.refused r)).refused })

/-- R65: the admitted widths and alignments, and no others. -/
def Obligations.AdmittedShapes : Prop :=
  ∀ (off : Offset) (n : Width), admittedShape off n = true ↔
    (n = .word ∧ off.toNat % 4 = 0 ∧ off.toNat ≤ 0x7C) ∨ (n = .byte ∧ off = 0x7C)

/-- R60: an address reaches the block exactly in [BASE, BASE + 0x80), at offset a - BASE; elsewhere the model's
own refusal (log 10). -/
def Obligations.AddressesOfTheBlock : Prop :=
  ∀ (a : Nat) (dir : Dir) (n : Width) (v : Word) (s : State),
    ((s.par.base ≤ a ∧ a < s.par.base + 0x80) → ∃ off : Offset, off.toNat = a - s.par.base ∧
      accessAt a dir n v s = busAccess ⟨dir, off, n, v⟩ s) ∧
    (¬(s.par.base ≤ a ∧ a < s.par.base + 0x80) → accessAt a dir n v s = .refused (.outsideBlock a))

/-- Tier 2, the frame of the accesses (R67): a read changes no state but the receive FIFO for RD_RBR, a write no
state but its own register, or the transmit FIFO for WR_THR. -/
def Obligations.AccessFrame : Prop :=
  ∀ (i : Instr) (s t : State), opOf i = none → exec i s = .next t →
    t = { s with
      ier := t.ier, lcr := t.lcr, dll := t.dll, dlh := t.dlh, txq := t.txq, rxq := t.rxq
      draws := t.draws, portData := t.portData } ∧
    (t.ier ≠ s.ier → ∃ v, i = .wrIer v) ∧ (t.lcr ≠ s.lcr → ∃ v, i = .wrLcr v) ∧
    (t.dll ≠ s.dll → ∃ v, i = .wrDll v) ∧ (t.dlh ≠ s.dlh → ∃ v, i = .wrDlh v) ∧
    (t.txq ≠ s.txq → ∃ v, i = .wrThr v) ∧ (t.rxq ≠ s.rxq → i = .rdRbr)

/-! ## The decoder's functions -/

/-- R141: the 24 values of LCR_ENCODE, and that they are distinct. -/
def Obligations.LcrEncodeTable : Prop :=
  ((fun wl => lcrEncode wl .one .none) <$> [.five, .six, .seven, .eight] = [0x00, 0x01, 0x02, 0x03]) ∧
  ((fun wl => lcrEncode wl .one .odd) <$> [.five, .six, .seven, .eight] = [0x08, 0x09, 0x0A, 0x0B]) ∧
  ((fun wl => lcrEncode wl .one .even) <$> [.five, .six, .seven, .eight] = [0x18, 0x19, 0x1A, 0x1B]) ∧
  ((fun wl => lcrEncode wl .two .none) <$> [.five, .six, .seven, .eight] = [0x04, 0x05, 0x06, 0x07]) ∧
  ((fun wl => lcrEncode wl .two .odd) <$> [.five, .six, .seven, .eight] = [0x0C, 0x0D, 0x0E, 0x0F]) ∧
  ((fun wl => lcrEncode wl .two .even) <$> [.five, .six, .seven, .eight] = [0x1C, 0x1D, 0x1E, 0x1F]) ∧
  (∀ wl wl' st st' par par', lcrEncode wl st par = lcrEncode wl' st' par' → wl = wl' ∧ st = st' ∧ par = par')

/-- R142: LCR_DECODE inverts LCR_ENCODE and is none exactly on the values it never gives. -/
def Obligations.LcrDecodeInverts : Prop :=
  ∀ (f : BitVec 6) (wl : WordLength) (st : StopBits) (par : Parity),
    lcrDecode f = some (wl, st, par) ↔ lcrEncode wl st par = f

/-- R143: the refusals and the floor quotient, truncated to 16 bits. -/
def Obligations.DivisorRule : Prop :=
  ∀ c b : Nat,
    (b = 0 → divisor c b = .error (.baudZero b)) ∧
    (b ≠ 0 → (16 * b > 2 ^ 32 - 1 ∨ c + 8 * b > 2 ^ 32 - 1) → divisor c b = .error (.baudRange b)) ∧
    (b ≠ 0 → 16 * b ≤ 2 ^ 32 - 1 → c + 8 * b ≤ 2 ^ 32 - 1 →
      divisor c b = .ok (BitVec.ofNat 16 ((c + 8 * b) / (16 * b))))

/-- R144: where DIVISOR does not refuse, it is C / (16 B) rounded to the nearest integer, halves up, truncated to
16 bits. -/
def Obligations.DivisorIsNearest : Prop :=
  ∀ (c b : Nat) (d : Divisor), divisor c b = .ok d →
    d = BitVec.ofInt 16 ⌊(c : ℚ) / (16 * b) + 1 / 2⌋

/-- R265: a quotient of 16 bits is programmed whole, a longer one truncated without a refusal, and a baud rate
above CLK_HZ / 8 programs divisor 0. -/
def Obligations.BaudValidation : Prop :=
  ∀ (c b : Nat) (d : Divisor), divisor c b = .ok d →
    ((c + 8 * b) / (16 * b) ≤ 0xFFFF → d.toNat = (c + 8 * b) / (16 * b)) ∧
    (0xFFFF < (c + 8 * b) / (16 * b) → d.toNat ≠ (c + 8 * b) / (16 * b)) ∧
    (c < 8 * b → d = 0)

/-- R145, R31: STATUS_DECODE tests five fixed bits of any byte, and on a USR snapshot gives the status bits
whatever bits 7:5 are. -/
def Obligations.StatusDecoder : Prop :=
  (∀ u : Byte,
    (statusDecode u).busy = u.getLsbD 0 ∧ (statusDecode u).transmitFifoNotFull = u.getLsbD 1 ∧
    (statusDecode u).transmitFifoEmpty = u.getLsbD 2 ∧ (statusDecode u).receiveFifoNotEmpty = u.getLsbD 3 ∧
    (statusDecode u).receiveFifoFull = u.getLsbD 4) ∧
  (∀ (s : State) (high : BitVec 3), statusDecode (s.usr high) =
    ⟨s.busy, s.tfnf, s.tfe, s.rfne, s.rff⟩)

/-- R33: DR = RFNE, BUSY = 0 implies TFE = 1 and TFNF = 1, and RFF = 1 with RFNE = 0 is never read, though the
decoder accepts such a byte. -/
def Obligations.StatusRelations : Prop :=
  (∀ s : State, s.par.valid = true →
    s.dr = s.rfne ∧ (s.busy = false → s.tfe = true ∧ s.tfnf = true) ∧ (s.rff = true → s.rfne = true)) ∧
  (statusDecode 0x13).receiveFifoFull = true ∧ (statusDecode 0x13).receiveFifoNotEmpty = false

/-- R229 in part: with the four sources masked the interrupt output is 0, and every write of IER[3:0] = 0 masks
them. -/
def Obligations.MaskedInterruptOutput : Prop :=
  (∀ s : State, s.ier.extractLsb' 0 4 = 0 → s.irq = false) ∧
  (∀ (v : Word) (s t : State), v.extractLsb' 0 4 = 0 → exec (.wrIer v) s = .next t → t.irq = false)

/-! ## The clock gate and reset -/

/-- R250, and the other two operations of the clock subsystem (R251, R252), on this instance's gate. -/
def Obligations.ClockGateContract : Prop :=
  ∀ s : State,
    gateReset s.par.gateId s = { s with
      gate := .on, ier := 0x00, lcr := 0x00, dll := 0x00, dlh := 0x00
      txq := [], txsh := none, rxq := [], rxActive := false } ∧
    gateFree s.par.gateId s = { s with gate := .off } ∧
    currentFrequency s = s.par.clkHz

/-- R253: the launch state. -/
def Obligations.LaunchState : Prop :=
  State.reset.gate = .off ∧ State.reset.hs = .unbound ∧ State.reset.faults = [] ∧
  State.reset.refused = [] ∧ State.reset.lineOut = [] ∧
  State.reset.eng.live = true ∧ State.reset.eng.cp = 0 ∧ State.reset.eng.phase = .idle ∧
  State.reset.eng.out = [] ∧ State.reset.engTx.live = false ∧ State.reset.engRx.live = false

/-! ## The engine's commands -/

/-- R167: the admission table, and the refusal of every other combination at fetch. -/
def Obligations.AdmissionTable : Prop :=
  (∀ (a : EngineId) (hs : HandleState) (op : CommandOp), admitted a hs op = true ↔
    (a = .eng ∧ hs = .unbound ∧ op = .configure) ∨
    (a = .eng ∧ hs = .serial ∧
      (op = .writeByte ∨ op = .flush ∨ op = .readByte ∨ op = .release ∨ op = .split)) ∨
    (a = .engTx ∧ hs = .split ∧ (op = .writeByte ∨ op = .flush)) ∨
    (a = .engRx ∧ hs = .split ∧ op = .readByte)) ∧
  (∀ (i : Instr) (op : CommandOp) (s : State), opOf i = some op → s.self.phase = .idle →
    admitted s.cur s.hs op = false →
      exec i s = .refused (.wrongHandleState s.cur (.notAdmitted s.hs op.code)))

/-- Tier 2, R160: the checks of a fetch in their order, and its one effect. -/
def Obligations.FetchChecks : Prop :=
  (∀ (e : EngineId) (s : State), (s.engine e).phase = .idle →
    (s.enabled (.engine e) = true ↔ (s.engine e).live = true ∧ (s.engine e).cp < (s.engine e).prog.length)) ∧
  (∀ (e : EngineId) (s : State) (w : Word) (rest : List Word),
    (s.engine e).words = w :: rest → illegalCommand w rest = true →
      engineStep e s = .refused (.reservedCmd e (s.engine e).cp w)) ∧
  (∀ (i : Instr) (op : CommandOp) (s : State), opOf i = some op → s.self.phase = .idle →
    exec i s =
      if admitted s.cur s.hs op then
        match fetchRefusal s.par.clkHz s.cur s.self i with
        | some r => .refused r
        | none => .next (s.toPhase (firstPhase op))
      else .refused (.wrongHandleState s.cur (.notAdmitted s.hs op.code)))

/-- Tier 2, R161: CONFIGURE's phases with the gate as CF_GATE leaves it, the writes LCR_BUSY_GUARD loses and the
accesses that DLAB turns to another register included. -/
def Obligations.ConfigurePhases : Prop :=
  ∀ (wl : WordLength) (st : StopBits) (par : Parity) (baud : Word) (s : State),
    (s.self.phase = .cfGate → exec (.configure wl st par baud) s =
      .next (State.toPhase { s with
        gate := .on, ier := 0x00, lcr := 0x00, dll := 0x00, dlh := 0x00
        txq := [], txsh := none, rxq := [], rxActive := false } .cfIerRd)) ∧
    (s.self.phase = .cfDiv → ∀ d, divisor s.par.clkHz baud.toNat = .ok d →
      exec (.configure wl st par baud) s = .next ((s.setD d).toPhase .cfLcrRd1)) ∧
    (s.gate = .on →
      (s.self.phase = .cfIerRd → exec (.configure wl st par baud) s =
        .next ((s.drew.setT (s.free.extractLsb' 8 24 ++ (if s.dlab then s.dlh else s.ier))).toPhase
          .cfIerWr)) ∧
      (s.self.phase = .cfIerWr → s.dlab = false → exec (.configure wl st par baud) s =
        .next (State.toPhase { s with ier := s.self.t.setWidth 8 &&& 0xF0 } .cfDiv)) ∧
      (s.self.phase = .cfIerWr → s.dlab = true → exec (.configure wl st par baud) s =
        .next (State.toPhase { s with
          dlh := if s.par.lcrBusyGuard && s.busy then s.dlh else s.self.t.setWidth 8 &&& 0xF0 } .cfDiv)) ∧
      (s.self.phase = .cfLcrRd1 → exec (.configure wl st par baud) s =
        .next ((s.drew.setT (s.free.extractLsb' 8 24 ++ s.lcr)).toPhase .cfLcrSet)) ∧
      (s.self.phase = .cfLcrSet → exec (.configure wl st par baud) s =
        .next (State.toPhase { s with
          lcr := if s.par.lcrBusyGuard && s.busy then s.lcr else s.self.t.setWidth 8 ||| 0x80 } .cfDll)) ∧
      (s.self.phase = .cfDll → s.dlab = true → exec (.configure wl st par baud) s =
        .next (State.toPhase { s with
          dll := if s.par.lcrBusyGuard && s.busy then s.dll else s.self.d.extractLsb' 0 8 } .cfDlh)) ∧
      (s.self.phase = .cfDll → s.dlab = false → s.txq.length ≠ s.par.txDepth →
        exec (.configure wl st par baud) s =
          .next (State.toPhase { s with txq := s.txq ++ [s.self.d.extractLsb' 0 8] } .cfDlh)) ∧
      (s.self.phase = .cfDll → s.dlab = false → s.txq.length = s.par.txDepth →
        exec (.configure wl st par baud) s = .fault (.txOverflow (s.self.d.extractLsb' 0 8))) ∧
      (s.self.phase = .cfDlh → s.dlab = true → exec (.configure wl st par baud) s =
        .next (State.toPhase { s with
          dlh := if s.par.lcrBusyGuard && s.busy then s.dlh else s.self.d.extractLsb' 8 8 } .cfLcrClr)) ∧
      (s.self.phase = .cfDlh → s.dlab = false → exec (.configure wl st par baud) s =
        .next (State.toPhase { s with ier := s.self.d.extractLsb' 8 8 } .cfLcrClr)) ∧
      (s.self.phase = .cfLcrClr → exec (.configure wl st par baud) s =
        .next (State.toPhase { s with
          lcr := if s.par.lcrBusyGuard && s.busy then s.lcr else s.self.t.setWidth 8 &&& 0x7F }
          .cfLcrRd2)) ∧
      (s.self.phase = .cfLcrRd2 → exec (.configure wl st par baud) s =
        .next ((s.drew.setT (s.free.extractLsb' 8 24 ++ s.lcr)).toPhase .cfLcrWr)) ∧
      (s.self.phase = .cfLcrWr → exec (.configure wl st par baud) s =
        .next (State.complete { s with
          lcr := if s.par.lcrBusyGuard && s.busy then s.lcr
            else (s.self.t.setWidth 8 &&& 0xC0) ||| (lcrEncode wl st par).setWidth 8
          hs := .serial } 2)))

/-- Tier 2, R256: CONFIGURE from its fetch to its end with no other agent between: twelve steps, from any state
in which it is admitted and its divisor can be had. -/
def Obligations.ConfigureEndState : Prop :=
  ∀ (wl : WordLength) (st : StopBits) (par : Parity) (baud : Word) (d : Divisor) (s : State),
    s.cur = .eng → s.hs = .unbound → s.eng.phase = .idle → divisor s.par.clkHz baud.toNat = .ok d →
      execTimes (.configure wl st par baud) 12 s = .next { s with
        gate := .on, ier := 0x00, lcr := (lcrEncode wl st par).setWidth 8
        dll := d.extractLsb' 0 8, dlh := d.extractLsb' 8 8
        txq := [], txsh := none, rxq := [], rxActive := false, hs := .serial
        draws := s.draws + 3
        eng := { s.eng with
          cp := s.eng.cp + 2, phase := .idle, d := d
          t := (Config.freeWord (s.draws + 2)).extractLsb' 8 24 ++ 0x00#8 } }

/-- Tier 2, R262: with LCR_BUSY_GUARD = true and a character arriving from just after the gate reset, CONFIGURE's
LCR and latch writes are lost and the divisor's low byte goes to THR. -/
def Obligations.ConfigureWhileReceiving : Prop :=
  ∀ (wl : WordLength) (st : StopBits) (par : Parity) (baud : Word) (d : Divisor) (s : State),
    s.cur = .eng → s.gate = .on → s.eng.phase = .cfIerRd → s.ier = 0x00 → s.lcr = 0x00 → s.txq = [] →
    s.rxActive = true → s.par.lcrBusyGuard = true → s.par.valid = true →
    divisor s.par.clkHz baud.toNat = .ok d →
      ∃ t, execTimes (.configure wl st par baud) 10 s = .next t ∧
        t.lcr = 0x00 ∧ t.dll = s.dll ∧ t.dlh = s.dlh ∧ t.ier = d.extractLsb' 8 8 ∧
        t.txq = [d.extractLsb' 0 8] ∧ t.rxActive = true ∧ t.hs = .serial ∧
        t.eng.cp = s.eng.cp + 2 ∧ t.eng.phase = .idle

/-- Tier 2, R162: WRITE_BYTE's poll, on the bit TX_POLL names, and its push; the push on a full FIFO faults, and
with DLAB = 1 it reaches DLL (R258). -/
def Obligations.WriteByteRule : Prop :=
  ∀ (b : Byte) (s : State),
    (s.self.phase = .idle → admitted s.cur s.hs .writeByte = true →
      exec (.writeByte b) s = .next (s.toPhase .wbPoll)) ∧
    (s.gate = .on →
      (s.self.phase = .wbPoll → exec (.writeByte b) s =
        .next (if (match s.par.txPoll with
            | .busy => decide (s.txq = [] ∧ s.txsh = none ∧ s.rxActive = false)
            | .tfnf => decide (s.txq.length < s.par.txDepth))
          then s.drew.toPhase .wbPush else s.drew)) ∧
      (s.self.phase = .wbPush → s.dlab = false →
        (s.txq.length ≠ s.par.txDepth → exec (.writeByte b) s =
          .next (State.complete { s with txq := s.txq ++ [b] } 1)) ∧
        (s.txq.length = s.par.txDepth → exec (.writeByte b) s = .fault (.txOverflow b))) ∧
      (s.self.phase = .wbPush → s.dlab = true → exec (.writeByte b) s =
        .next (State.complete { s with
          dll := if s.par.lcrBusyGuard && s.busy then s.dll else b } 1)))

/-- R163: FLUSH completes at the poll that finds the transmit FIFO empty, whatever the shift stage holds. -/
def Obligations.FlushRule : Prop :=
  ∀ s : State,
    (s.self.phase = .idle → admitted s.cur s.hs .flush = true → exec .flush s = .next (s.toPhase .flPoll)) ∧
    (s.gate = .on → s.self.phase = .flPoll →
      (s.txq = [] → exec .flush s = .next (s.drew.complete 1)) ∧
      (s.txq ≠ [] → exec .flush s = .next s.drew))

/-- Tier 2, R164: READ_BYTE's poll of DR and its pop, delivered to `out`; the pop of an empty FIFO faults. -/
def Obligations.ReadByteRule : Prop :=
  ∀ s : State,
    (s.self.phase = .idle → admitted s.cur s.hs .readByte = true →
      exec .readByte s = .next (s.toPhase .rbPoll)) ∧
    (s.gate = .on →
      (s.self.phase = .rbPoll →
        (s.rxq ≠ [] → exec .readByte s = .next (s.drew.toPhase .rbPop)) ∧
        (s.rxq = [] → exec .readByte s = .next s.drew)) ∧
      (s.self.phase = .rbPop → s.dlab = false →
        (∀ c q, s.rxq = c :: q → exec .readByte s =
          .next (((State.drew { s with rxq := q }).deliverByte c).complete 1)) ∧
        (s.rxq = [] → exec .readByte s = .fault (.rxUnderflow 0x00))) ∧
      (s.self.phase = .rbPop → s.dlab = true → exec .readByte s =
        .next ((s.drew.deliverByte s.dll).complete 1)))

/-- R165: RELEASE frees the gate and unbinds the handle, without waiting for the transmitter. -/
def Obligations.ReleaseRule : Prop :=
  ∀ s : State,
    (s.self.phase = .idle → admitted s.cur s.hs .release = true →
      exec .release s = .next (s.toPhase .rlGate)) ∧
    (s.self.phase = .rlGate →
      exec .release s = .next (State.complete { s with gate := .off, hs := .unbound } 1))

/-- R166: SPLIT, as the last word of P_main, ends ENG and starts the halves; before another word it is refused. -/
def Obligations.SplitRule : Prop :=
  ∀ s : State,
    (s.self.phase = .idle → admitted s.cur s.hs .split = true →
      (s.self.prog.length ≤ s.self.cp + 1 → exec .split s = .next (s.toPhase .spDo)) ∧
      (s.self.cp + 1 < s.self.prog.length → exec .split s =
        .refused (.wrongHandleState s.cur (.splitNotLast (s.self.cp + 1))))) ∧
    (s.cur = .eng → s.self.phase = .spDo → exec .split s = .next { s with
      hs := .split
      eng := { s.eng with cp := s.eng.cp + 1, phase := .idle, live := false }
      engTx := { s.engTx with live := true }
      engRx := { s.engRx with live := true } })

/-- Tier 2, the frame of WRITE_BYTE, FLUSH and READ_BYTE (R168): beside the running agent's own pointer, phase
and `out`, WRITE_BYTE changes the transmit FIFO alone, FLUSH nothing, READ_BYTE the receive FIFO alone (and with
DLAB = 1 a push reaches DLL, R258). -/
def Obligations.CommandFrame : Prop :=
  (∀ (b : Byte) (s t : State), exec (.writeByte b) s = .next t → ∃ e : Engine,
    t = State.setSelf { s with txq := t.txq, dll := t.dll, draws := t.draws } e ∧
    e = { s.self with cp := e.cp, phase := e.phase } ∧
    (t.txq = s.txq ∨ t.txq = s.txq ++ [b]) ∧ (s.dlab = false → t.dll = s.dll)) ∧
  (∀ s t : State, exec .flush s = .next t → ∃ e : Engine,
    t = State.setSelf { s with draws := t.draws } e ∧ e = { s.self with cp := e.cp, phase := e.phase }) ∧
  (∀ s t : State, exec .readByte s = .next t → ∃ e : Engine,
    t = State.setSelf { s with rxq := t.rxq, draws := t.draws } e ∧
    e = { s.self with cp := e.cp, phase := e.phase, out := e.out } ∧
    (t.rxq = s.rxq ∨ ∃ c, s.rxq = c :: t.rxq ∧ e.out = s.self.out ++ [c]))

/-! ## The line agents -/

/-- R200 to R203, R206: TXL_LOAD, TXL_SEND, RXL_START and RXL_DONE, each exactly where it is enabled, none with the
gate OFF; RXL_DONE faults on a full FIFO. -/
def Obligations.LineAgentSteps : Prop :=
  ∀ s : State,
    (s.enabled .transmitter = true ↔ s.gate = .on ∧ (s.txsh ≠ none ∨ s.txq ≠ [])) ∧
    (s.enabled .receiver = true ↔ s.gate = .on) ∧
    (∀ c q, s.gate = .on → s.txsh = none → s.txq = c :: q → agentStep .transmitter s =
      .next { s with txsh := some ⟨c, s.lcr, s.dlh ++ s.dll⟩, txq := q }) ∧
    (∀ x, s.gate = .on → s.txsh = some x → agentStep .transmitter s =
      .next { s with
        txsh := none
        lineOut := s.lineOut ++
          [⟨x.char &&& BitVec.ofNat 8 (2 ^ (5 + x.lcr.toNat % 4) - 1), x.lcr, x.div⟩] }) ∧
    (s.gate = .on → s.rxActive = false → agentStep .receiver s = .next { s with rxActive := true }) ∧
    (s.gate = .on → s.rxActive = true →
      (s.rxq.length ≠ s.par.rxDepth → agentStep .receiver s = .next { s with
        rxq := s.rxq ++ [s.free.extractLsb' 0 8], rxActive := false, draws := s.draws + 1 }) ∧
      (s.rxq.length = s.par.rxDepth → agentStep .receiver s =
        .fault (.rxOverrun (s.free.extractLsb' 0 8))))

/-- Tier 2: the transmitter alone sends its whole queue in order, each character with the LCR and the divisor of
its loading (R200, R201, R34). -/
def Obligations.TransmitterDrains : Prop :=
  ∀ s : State, s.gate = .on → s.txsh = none →
    transmitTimes (2 * s.txq.length) s = .next { s with
      txq := []
      lineOut := s.lineOut ++ s.txq.map fun c => ⟨lowBits c (charLength s.lcr), s.lcr, s.dlh ++ s.dll⟩ }

/-! ## The machine -/

/-- Tier 1: a step of the chosen engine agent is the decoded command's meaning with the agent as `cur`, and the
step's own bookkeeping of tick and turn (log 5, log 9). -/
def Obligations.StepRunsCommand : Prop :=
  ∀ (e : EngineId) (i : Instr) (s : State), s.marked = false → s.port = none →
    s.chosen = some (.engine e) → decodeCommand (s.engine e).words = .ok i →
      step s =
        match exec i { s with cur := e } with
        | .next t => .next { t with tick := t.tick + 1, turn := Config.schedule t.tick }
        | .fault f => .fault f
        | .refused r => .refused r

/-- Tier 1: the agent asked steps if it has a step, else an engine agent that has one; a line agent steps only
where it is asked, and where no agent is chosen the machine idles (R69, R227, R202; the search is log 5). -/
def Obligations.ChosenAgentIsEnabled : Prop :=
  ∀ s : State,
    (s.enabled s.turn = true → s.chosen = some s.turn) ∧
    (∀ a, s.chosen = some a → s.enabled a = true) ∧
    (∀ a, s.chosen = some a → a = .transmitter ∨ a = .receiver → a = s.turn) ∧
    (s.chosen = none ↔ s.enabled s.turn = false ∧ ∀ e, s.enabled (.engine e) = false) ∧
    (s.marked = false → s.port = none → s.chosen = none →
      step s = .next { s with tick := s.tick + 1, turn := Config.schedule s.tick })

/-- Tier 1: a step with an access at the register port is the meaning of the row it selects (log 7). -/
def Obligations.StepRunsAccess : Prop :=
  ∀ (req : BusRequest) (i : Instr) (s : State), s.marked = false → s.port = some req →
    admittedShape req.off req.n = true →
    decodeKey (accessKey req.dir req.off req.n (bitSet s.lcr 7)) req.v = .ok i →
      step s =
        match exec i { s with port := none } with
        | .next t => .next { t with tick := t.tick + 1, turn := Config.schedule t.tick }
        | .fault f => .fault f
        | .refused r => .refused r

/-- Tier 2, R226: a marked state is quiescent and not final, and the state a stop leaves is marked. -/
def Obligations.MarkedIsQuiescent : Prop :=
  (∀ s : State, s.marked = true → step s = .next s ∧ final s = false) ∧
  (∀ (s : State) (f : Fault), step s = .fault f →
    f ∈ (advance s).faults ∧ step (advance s) = .next (advance s) ∧ final (advance s) = false) ∧
  (∀ (s : State) (r : Refusal), step s = .refused r →
    r ∈ (advance s).refused ∧ step (advance s) = .next (advance s) ∧ final (advance s) = false)

/-- R173: a final state, in which no engine agent has a step. -/
def Obligations.FinalStates : Prop :=
  ∀ s : State,
    (final s = true ↔ (∀ e, (s.engine e).live = true →
      (s.engine e).phase = .idle ∧ (s.engine e).prog.length ≤ (s.engine e).cp) ∧ s.faults = [] ∧ s.refused = []) ∧
    (final s = true → ∀ e, s.enabled (.engine e) = false)

/-- Tier 2, R35 and R37: no step, of any instruction or agent, clears a mark, or changes a program or a parameter. -/
def Obligations.NothingClearsMarks : Prop :=
  ∀ s t : State, step s = .next t →
    t.faults = s.faults ∧ t.refused = s.refused ∧ t.par = s.par ∧
    t.eng.prog = s.eng.prog ∧ t.engTx.prog = s.engTx.prog ∧ t.engRx.prog = s.engRx.prog

/-- Tier 2, R34: what is on the line stays there, in every step. -/
def Obligations.LineOutGrows : Prop :=
  ∀ s t : State, step s = .next t →
    (∃ xs, t.lineOut = s.lineOut ++ xs) ∧ (∀ e, ∃ bs, (t.engine e).out = (s.engine e).out ++ bs) ∧
    (∀ e, (s.engine e).cp ≤ (t.engine e).cp)

/-- Tier 2: only RELEASE frees the gate and only CONFIGURE's CF_GATE opens it, in any step (R21, R165). -/
def Obligations.GateChanges : Prop :=
  ∀ s t : State, step s = .next t → t.gate ≠ s.gate →
    s.port = none ∧ ∃ e, s.chosen = some (.engine e) ∧
      ((t.gate = .off ∧ (s.engine e).phase = .rlGate ∧
          decodeCommand (s.engine e).words = .ok .release) ∨
        (t.gate = .on ∧ (s.engine e).phase = .cfGate ∧
          ∃ wl st par baud, decodeCommand (s.engine e).words = .ok (.configure wl st par baud)))

/-- Tier 2: no command other than CONFIGURE writes IER, LCR, DLL or DLH (R168); a push with DLAB = 1 would reach
DLL (R258). -/
def Obligations.OnlyConfigureWritesRegisters : Prop :=
  ∀ s t : State, step s = .next t → s.port = none → s.dlab = false →
    (t.ier ≠ s.ier ∨ t.lcr ≠ s.lcr ∨ t.dll ≠ s.dll ∨ t.dlh ≠ s.dlh) →
      ∃ e wl st par baud, s.chosen = some (.engine e) ∧
        decodeCommand (s.engine e).words = .ok (.configure wl st par baud)

/-- Tier 2: every push follows a poll that showed room, every pop one that showed data (R259). -/
def Obligations.PollPrecedesData : Prop :=
  ∀ (s t : State) (e : EngineId), step s = .next t →
    ((t.engine e).phase = .wbPush →
      (s.engine e).phase = .wbPush ∨ ((s.engine e).phase = .wbPoll ∧ s.showsRoom = true)) ∧
    ((t.engine e).phase = .rbPop →
      (s.engine e).phase = .rbPop ∨ ((s.engine e).phase = .rbPoll ∧ s.rxq ≠ []))

/-- Tier 1: the invariants hold at launch. -/
def Obligations.LaunchInvariants : Prop :=
  RunInvariant State.reset ∧ RegisterInvariant State.reset ∧ FifoBounds State.reset

/-- Tier 3: every step keeps the FIFOs within their depths, from any state (R28, R30). -/
def Obligations.FifoBoundsKept : Prop :=
  ∀ s t : State, FifoBounds s → step s = .next t → FifoBounds t

/-- Tier 3: every step keeps the invariant of a run: the agents that live in each handle state, the gate ON for a
handle, each agent inside an admitted command, room before a push and data before a pop (R36, R166, R257, R259). -/
def Obligations.RunInvariantKept : Prop :=
  ∀ s t : State, RunInvariant s → step s = .next t → RunInvariant t

/-- Tier 2: in a run the only fault is a receive overrun: no gated access, no overflow, no underflow (R222 to
R225). -/
def Obligations.OnlyOverrunFaults : Prop :=
  ∀ (s : State) (f : Fault), RunInvariant s → step s = .fault f → ∃ c, f = .rxOverrun c

/-- Tier 3: with LCR_BUSY_GUARD = false every step keeps CONFIGURE's register values, whatever the line agents do
between, so that a handle has IER = 0, DLAB = 0 and the divisor and format it asked for (R168, R256). -/
def Obligations.RegisterInvariantKept : Prop :=
  ∀ s t : State, RunInvariant s → RegisterInvariant s → step s = .next t → RegisterInvariant t

/-- Tier 2: the handle moves as R36 says, and nothing leaves SPLIT. -/
def Obligations.HandleMoves : Prop :=
  ∀ s t : State, RunInvariant s → step s = .next t →
    t.hs = s.hs ∨ (s.hs = .unbound ∧ t.hs = .serial) ∨ (s.hs = .serial ∧ t.hs = .unbound) ∨
      (s.hs = .serial ∧ t.hs = .split)

/-- Tier 2: the halves do not interfere: a step of ENG_TX and one of ENG_RX give the same state in either order,
but for the model's own `cur` (log 9); DLAB = 0 as every handle has it (R169). -/
def Obligations.HalvesCommute : Prop :=
  ∀ s : State, RunInvariant s → s.hs = .split → s.dlab = false →
    (∀ a b, engineStep .engTx s = .next a → engineStep .engRx a = .next b →
      ∃ c d, engineStep .engRx s = .next c ∧ engineStep .engTx c = .next d ∧ SameUpToCur b d) ∧
    (∀ a b, engineStep .engRx s = .next a → engineStep .engTx a = .next b →
      ∃ c d, engineStep .engTx s = .next c ∧ engineStep .engRx c = .next d ∧ SameUpToCur b d)

/-- Tier 2, R202 and R205: from every state without an arriving character there is a fair run that receives nothing;
in a fair run no load, send or arrival is owed forever; and while a handle stands and no mark does, a character in
the shift stage whose divisor is not 0 goes on the line. -/
def Obligations.RunsOfTheLine : Prop :=
  (∀ s : State, s.port = none → s.rxActive = false → ∃ (ask : Nat → Agent) (r : Nat → State),
    r 0 = s ∧ IsRun ask r ∧ LineFair ask r ∧ ∀ n, (r n).rxActive = false) ∧
  (∀ (ask : Nat → Agent) (r : Nat → State), IsRun ask r → LineFair ask r → ∀ n,
    (∃ m, n ≤ m ∧ ¬loadOwed (r m)) ∧ (∃ m, n ≤ m ∧ ¬sendOwed (r m)) ∧ (∃ m, n ≤ m ∧ ¬doneOwed (r m))) ∧
  (∀ (ask : Nat → Agent) (r : Nat → State) (n : Nat) (x : TxChar), IsRun ask r → LineFair ask r →
    RunInvariant (r n) → (∀ m, n ≤ m → (r m).hs ≠ .unbound ∧ (r m).marked = false) →
    (r n).txsh = some x → x.div ≠ 0 →
      ∃ m, n ≤ m ∧ (r m).lineOut = (r n).lineOut ++ [⟨lowBits x.char (charLength x.lcr), x.lcr, x.div⟩])
end

