-- ==== Sys2Proof/Laws/State.lean ====
section
/-! SUPPORT. Field by field, what the named updates of State leave and change; the engine updates all come
down to `setEngine`. -/

namespace Sys2Proof.Machine

/-! ## setEngine: every field but the engines -/

section
variable (s : State) (a b : EngineId) (e f : Engine)

@[simp] theorem State.setEngine_gate : (s.setEngine a e).gate = s.gate := by cases a <;> rfl
@[simp] theorem State.setEngine_ier : (s.setEngine a e).ier = s.ier := by cases a <;> rfl
@[simp] theorem State.setEngine_lcr : (s.setEngine a e).lcr = s.lcr := by cases a <;> rfl
@[simp] theorem State.setEngine_dll : (s.setEngine a e).dll = s.dll := by cases a <;> rfl
@[simp] theorem State.setEngine_dlh : (s.setEngine a e).dlh = s.dlh := by cases a <;> rfl
@[simp] theorem State.setEngine_txq : (s.setEngine a e).txq = s.txq := by cases a <;> rfl
@[simp] theorem State.setEngine_txsh : (s.setEngine a e).txsh = s.txsh := by cases a <;> rfl
@[simp] theorem State.setEngine_rxq : (s.setEngine a e).rxq = s.rxq := by cases a <;> rfl
@[simp] theorem State.setEngine_rxActive : (s.setEngine a e).rxActive = s.rxActive := by cases a <;> rfl
@[simp] theorem State.setEngine_lineOut : (s.setEngine a e).lineOut = s.lineOut := by cases a <;> rfl
@[simp] theorem State.setEngine_faults : (s.setEngine a e).faults = s.faults := by cases a <;> rfl
@[simp] theorem State.setEngine_refused : (s.setEngine a e).refused = s.refused := by cases a <;> rfl
@[simp] theorem State.setEngine_hs : (s.setEngine a e).hs = s.hs := by cases a <;> rfl
@[simp] theorem State.setEngine_par : (s.setEngine a e).par = s.par := by cases a <;> rfl
@[simp] theorem State.setEngine_draws : (s.setEngine a e).draws = s.draws := by cases a <;> rfl
@[simp] theorem State.setEngine_tick : (s.setEngine a e).tick = s.tick := by cases a <;> rfl
@[simp] theorem State.setEngine_turn : (s.setEngine a e).turn = s.turn := by cases a <;> rfl
@[simp] theorem State.setEngine_cur : (s.setEngine a e).cur = s.cur := by cases a <;> rfl
@[simp] theorem State.setEngine_port : (s.setEngine a e).port = s.port := by cases a <;> rfl
@[simp] theorem State.setEngine_portData : (s.setEngine a e).portData = s.portData := by cases a <;> rfl

/-! ## setEngine: the engines -/

@[simp] theorem State.engine_setEngine_same : (s.setEngine a e).engine a = e := by cases a <;> rfl

theorem State.engine_setEngine_ne (h : b ≠ a) : (s.setEngine a e).engine b = s.engine b := by
  cases a <;> cases b <;> first | rfl | exact absurd rfl h

@[simp] theorem State.setEngine_setEngine : (s.setEngine a e).setEngine a f = s.setEngine a f := by
  cases a <;> rfl

@[simp] theorem State.setEngine_engine : s.setEngine a (s.engine a) = s := by cases a <;> rfl

@[simp] theorem State.engine_eng : s.engine .eng = s.eng := rfl
@[simp] theorem State.engine_engTx : s.engine .engTx = s.engTx := rfl
@[simp] theorem State.engine_engRx : s.engine .engRx = s.engRx := rfl
@[simp] theorem State.setEngine_eng_eng : (s.setEngine .eng e).eng = e := rfl
@[simp] theorem State.setEngine_eng_engTx : (s.setEngine .eng e).engTx = s.engTx := rfl
@[simp] theorem State.setEngine_eng_engRx : (s.setEngine .eng e).engRx = s.engRx := rfl
@[simp] theorem State.setEngine_engTx_eng : (s.setEngine .engTx e).eng = s.eng := rfl
@[simp] theorem State.setEngine_engTx_engTx : (s.setEngine .engTx e).engTx = e := rfl
@[simp] theorem State.setEngine_engTx_engRx : (s.setEngine .engTx e).engRx = s.engRx := rfl
@[simp] theorem State.setEngine_engRx_eng : (s.setEngine .engRx e).eng = s.eng := rfl
@[simp] theorem State.setEngine_engRx_engTx : (s.setEngine .engRx e).engTx = s.engTx := rfl
@[simp] theorem State.setEngine_engRx_engRx : (s.setEngine .engRx e).engRx = e := rfl

end

/-! ## The updates of one engine agent, as setEngine -/

section
variable (s : State) (p : Phase) (v : Word) (d : Divisor) (b : Byte) (k : Nat) (a : EngineId) (l : Bool)

@[simp] theorem State.self_eq : s.self = s.engine s.cur := rfl
@[simp] theorem State.toPhase_eq :
    s.toPhase p = s.setEngine s.cur { s.engine s.cur with phase := p } := rfl
@[simp] theorem State.setT_eq : s.setT v = s.setEngine s.cur { s.engine s.cur with t := v } := rfl
@[simp] theorem State.setD_eq : s.setD d = s.setEngine s.cur { s.engine s.cur with d := d } := rfl
@[simp] theorem State.deliverByte_eq :
    s.deliverByte b = s.setEngine s.cur { s.engine s.cur with out := (s.engine s.cur).out ++ [b] } := rfl
@[simp] theorem State.complete_eq :
    s.complete k =
      s.setEngine s.cur { s.engine s.cur with cp := (s.engine s.cur).cp + k, phase := .idle } := rfl
@[simp] theorem State.setLive_eq : s.setLive a l = s.setEngine a { s.engine a with live := l } := rfl

end

/-! ## drew -/

section
variable (s : State) (a : EngineId)

@[simp] theorem State.drew_gate : s.drew.gate = s.gate := rfl
@[simp] theorem State.drew_ier : s.drew.ier = s.ier := rfl
@[simp] theorem State.drew_lcr : s.drew.lcr = s.lcr := rfl
@[simp] theorem State.drew_dll : s.drew.dll = s.dll := rfl
@[simp] theorem State.drew_dlh : s.drew.dlh = s.dlh := rfl
@[simp] theorem State.drew_txq : s.drew.txq = s.txq := rfl
@[simp] theorem State.drew_txsh : s.drew.txsh = s.txsh := rfl
@[simp] theorem State.drew_rxq : s.drew.rxq = s.rxq := rfl
@[simp] theorem State.drew_rxActive : s.drew.rxActive = s.rxActive := rfl
@[simp] theorem State.drew_lineOut : s.drew.lineOut = s.lineOut := rfl
@[simp] theorem State.drew_faults : s.drew.faults = s.faults := rfl
@[simp] theorem State.drew_refused : s.drew.refused = s.refused := rfl
@[simp] theorem State.drew_hs : s.drew.hs = s.hs := rfl
@[simp] theorem State.drew_eng : s.drew.eng = s.eng := rfl
@[simp] theorem State.drew_engTx : s.drew.engTx = s.engTx := rfl
@[simp] theorem State.drew_engRx : s.drew.engRx = s.engRx := rfl
@[simp] theorem State.drew_engine : s.drew.engine a = s.engine a := by cases a <;> rfl
@[simp] theorem State.drew_par : s.drew.par = s.par := rfl
@[simp] theorem State.drew_draws : s.drew.draws = s.draws + 1 := rfl
@[simp] theorem State.drew_tick : s.drew.tick = s.tick := rfl
@[simp] theorem State.drew_turn : s.drew.turn = s.turn := rfl
@[simp] theorem State.drew_cur : s.drew.cur = s.cur := rfl
@[simp] theorem State.drew_port : s.drew.port = s.port := rfl
@[simp] theorem State.drew_portData : s.drew.portData = s.portData := rfl

end

/-! ## The clock gate -/

section
variable (s : State) (a : EngineId)

@[simp] theorem gateReset_own : gateReset s.par.gateId s = s.blockReset := if_pos rfl
@[simp] theorem gateFree_own : gateFree s.par.gateId s = { s with gate := .off } := if_pos rfl

@[simp] theorem State.blockReset_gate : s.blockReset.gate = .on := rfl
@[simp] theorem State.blockReset_ier : s.blockReset.ier = 0#8 := rfl
@[simp] theorem State.blockReset_lcr : s.blockReset.lcr = 0#8 := rfl
@[simp] theorem State.blockReset_dll : s.blockReset.dll = 0#8 := rfl
@[simp] theorem State.blockReset_dlh : s.blockReset.dlh = 0#8 := rfl
@[simp] theorem State.blockReset_txq : s.blockReset.txq = [] := rfl
@[simp] theorem State.blockReset_txsh : s.blockReset.txsh = none := rfl
@[simp] theorem State.blockReset_rxq : s.blockReset.rxq = [] := rfl
@[simp] theorem State.blockReset_rxActive : s.blockReset.rxActive = false := rfl
@[simp] theorem State.blockReset_lineOut : s.blockReset.lineOut = s.lineOut := rfl
@[simp] theorem State.blockReset_faults : s.blockReset.faults = s.faults := rfl
@[simp] theorem State.blockReset_refused : s.blockReset.refused = s.refused := rfl
@[simp] theorem State.blockReset_hs : s.blockReset.hs = s.hs := rfl
@[simp] theorem State.blockReset_engine : s.blockReset.engine a = s.engine a := by cases a <;> rfl
@[simp] theorem State.blockReset_eng : s.blockReset.eng = s.eng := rfl
@[simp] theorem State.blockReset_engTx : s.blockReset.engTx = s.engTx := rfl
@[simp] theorem State.blockReset_engRx : s.blockReset.engRx = s.engRx := rfl
@[simp] theorem State.blockReset_par : s.blockReset.par = s.par := rfl
@[simp] theorem State.blockReset_draws : s.blockReset.draws = s.draws := rfl
@[simp] theorem State.blockReset_tick : s.blockReset.tick = s.tick := rfl
@[simp] theorem State.blockReset_turn : s.blockReset.turn = s.turn := rfl
@[simp] theorem State.blockReset_cur : s.blockReset.cur = s.cur := rfl
@[simp] theorem State.blockReset_port : s.blockReset.port = s.port := rfl
@[simp] theorem State.blockReset_portData : s.blockReset.portData = s.portData := rfl

end

/-! ## Marks -/

section
variable (s t : State) (f : Fault) (r : Refusal)

@[simp] theorem State.settle_next : s.settle (.next t) = t := rfl
@[simp] theorem State.settle_fault : s.settle (.fault f) = s.markFault f := rfl
@[simp] theorem State.settle_refused : s.settle (.refused r) = s.markRefusal r := rfl

/-- A fault's mark stands in the state it leaves. -/
theorem State.mem_markFault : f ∈ (s.markFault f).faults := by
  by_cases h : f ∈ s.faults <;> simp [State.markFault, h]

/-- A refusal's mark stands in the state it leaves. -/
theorem State.mem_markRefusal : r ∈ (s.markRefusal r).refused := by
  by_cases h : r ∈ s.refused <;> simp [State.markRefusal, h]

/-- A state a fault has left is marked. -/
theorem State.markFault_marked : (s.markFault f).marked = true := by
  have h := List.ne_nil_of_mem (s.mem_markFault f)
  simp [State.marked, h]

/-- A state a refusal has left is marked. -/
theorem State.markRefusal_marked : (s.markRefusal r).marked = true := by
  have h := List.ne_nil_of_mem (s.mem_markRefusal r)
  simp [State.marked, h]

end

end Sys2Proof.Machine
end

