-- ==== Sys2Proof/Laws/Bits.lean ====
section
/-! SUPPORT. The bit-field helpers and the status bytes, read bit by bit. -/

namespace Sys2Proof

/-- The bits of a bus word made of its upper 24 and its low 8. -/
theorem getLsbD_word (f : BitVec 24) (b : Byte) (i : Nat) :
    BitVec.getLsbD (f ++ b : Word) i = if i < 8 then b.getLsbD i else f.getLsbD (i - 8) :=
  BitVec.getLsbD_append

@[simp] theorem lowByte_append (f : BitVec 24) (b : Byte) : lowByte (f ++ b) = b := by
  refine BitVec.eq_of_getLsbD_eq fun i hi => ?_
  rw [lowByte, BitVec.getLsbD_setWidth, getLsbD_word]
  simp [hi]

@[simp] theorem lowByte_byteWord (b : Byte) : lowByte (byteWord b) = b := by
  simp [lowByte, byteWord]

/-- Bits below 8 of a bus word are those of its low byte. -/
theorem bitSet_append_low (f : BitVec 24) (b : Byte) (i : Nat) (h : i < 8) :
    bitSet (f ++ b : Word) i = bitSet b i := by
  rw [bitSet, getLsbD_word, if_pos h, bitSet]

end Sys2Proof

namespace Sys2Proof.Machine

variable (s : State)

/-- STATUS_DECODE of USR's byte gives the five status bits whatever its bits 7:5 are (R31, R145). -/
@[simp] theorem statusDecode_usr (high : BitVec 3) :
    statusDecode (s.usr high) = ⟨s.busy, s.tfnf, s.tfe, s.rfne, s.rff⟩ := by
  have bits : ∀ a b c d e : Bool, ∀ h : BitVec 3,
      statusDecode (h ++ (BitVec.ofBool a ++ (BitVec.ofBool b ++ (BitVec.ofBool c ++
        (BitVec.ofBool d ++ BitVec.ofBool e))))) = ⟨e, d, c, b, a⟩ := by decide
  exact bits ..

/-- Bit 0 of LSR's byte is DR (R32). -/
@[simp] theorem bitSet_lsr (high : BitVec 7) : bitSet (s.lsr high) 0 = s.dr := by
  rw [State.lsr, bitSet]
  refine (BitVec.getLsbD_append (x := high) (y := BitVec.ofBool s.dr)).trans ?_
  simp

/-- With an idle block the transmit FIFO is empty (R33). -/
theorem State.txq_of_not_busy (h : s.busy = false) : s.txq = [] := by
  simp only [State.busy, Bool.or_eq_false_iff, Bool.not_eq_false'] at h
  simpa using h.1.1

/-- TFNF says there is room (R31). -/
theorem State.room_of_tfnf (h : s.tfnf = true) : s.txq.length < s.par.txDepth := by
  simpa [State.tfnf] using h

/-- What WRITE_BYTE waits for is room in the transmit FIFO (R162, R259). -/
theorem State.room_of_showsRoom (hd : 1 ≤ s.par.txDepth) (h : s.showsRoom = true) :
    s.txq.length < s.par.txDepth := by
  unfold State.showsRoom at h
  split at h
  · have := s.txq_of_not_busy (by simpa using h)
    simp only [this, List.length_nil]
    omega
  · exact s.room_of_tfnf h

/-- DR says there is data (R32). -/
theorem State.data_of_dr (h : s.dr = true) : s.rxq ≠ [] := by
  simpa [State.dr] using h

/-- A status bit does not see the engines. -/
@[simp] theorem State.busy_setEngine (a : EngineId) (e : Engine) : (s.setEngine a e).busy = s.busy := by
  simp [State.busy]
@[simp] theorem State.tfnf_setEngine (a : EngineId) (e : Engine) : (s.setEngine a e).tfnf = s.tfnf := by
  simp [State.tfnf]
@[simp] theorem State.tfe_setEngine (a : EngineId) (e : Engine) : (s.setEngine a e).tfe = s.tfe := by
  simp [State.tfe]
@[simp] theorem State.dr_setEngine (a : EngineId) (e : Engine) : (s.setEngine a e).dr = s.dr := by
  simp [State.dr]
@[simp] theorem State.dlab_setEngine (a : EngineId) (e : Engine) : (s.setEngine a e).dlab = s.dlab := by
  simp [State.dlab]
@[simp] theorem State.div_setEngine (a : EngineId) (e : Engine) : (s.setEngine a e).div = s.div := by
  simp [State.div]

/-- The six-bit format field never sets DLAB or BC (R140). -/
theorem lcrEncode_high (wl : WordLength) (st : StopBits) (par : Parity) :
    (((0 : Byte) &&& 0xC0) ||| (lcrEncode wl st par).setWidth 8) = (lcrEncode wl st par).setWidth 8 := by
  cases wl <;> cases st <;> cases par <;> decide

/-- LCR as CONFIGURE leaves it has DLAB = 0 (R168). -/
theorem lcrEncode_dlab (wl : WordLength) (st : StopBits) (par : Parity) :
    bitSet ((lcrEncode wl st par).setWidth 8) 7 = false := by
  cases wl <;> cases st <;> cases par <;> decide

end Sys2Proof.Machine
end

