-- ==== Sys2Proof/Laws/Bus.lean ====
section
/-! SUPPORT. What the shared operations of an access can do: sequencing, the gate check, the selection of a
row, and MemRead and MemWrite at each offset the engine uses. -/

namespace Sys2Proof.Machine

/-! ## Sequencing -/

section
variable {σ τ : Type} {o : Host.Outcome σ Fault Refusal} {f : σ → Host.Outcome τ Fault Refusal}

@[simp] theorem andThen_next (s : σ) : andThen (.next s) f = f s := rfl
@[simp] theorem andThen_fault (r : Fault) :
    andThen (.fault r : Host.Outcome σ Fault Refusal) f = .fault r := rfl
@[simp] theorem andThen_refused (r : Refusal) :
    andThen (.refused r : Host.Outcome σ Fault Refusal) f = .refused r := rfl

/-- A sequence answers a next state only through one of its first part. -/
theorem andThen_eq_next {t : τ} : andThen o f = .next t ↔ ∃ s, o = .next s ∧ f s = .next t := by
  cases o <;> simp [andThen]

/-- A sequence faults in its first part or after it. -/
theorem andThen_eq_fault {r : Fault} :
    andThen o f = .fault r ↔ o = .fault r ∨ ∃ s, o = .next s ∧ f s = .fault r := by
  cases o <;> simp [andThen]

end

/-! ## The gate check -/

section
variable (dir : Dir) (off : Offset) (n : Width) (s : State) (r : BusResult)

@[simp] theorem gated_on (h : s.gate = .on) : gated dir off n s r = r := by simp [gated, h]
@[simp] theorem gated_off (h : s.gate = .off) : gated dir off n s r = .fault (.gatedAccess dir off n) := by
  simp [gated, h]

end

/-! ## Delivery at the register port -/

@[simp] theorem deliver_read (s : State) (w : Word) :
    deliver (.next (s, some w)) = .next { s with portData := w } := rfl
@[simp] theorem deliver_write (s : State) : deliver (.next (s, none)) = .next s := rfl
@[simp] theorem deliver_fault (f : Fault) : deliver (.fault f) = .fault f := rfl
@[simp] theorem deliver_refused (r : Refusal) : deliver (.refused r) = .refused r := rfl

/-- An access delivers nothing but a read's value, and stops only where the access stops. -/
theorem deliver_eq_next {r : BusResult} {t : State} :
    deliver r = .next t ↔
      ∃ s, r = .next (s, none) ∧ t = s ∨ ∃ w, r = .next (s, some w) ∧ t = { s with portData := w } := by
  rcases r with ⟨s, _ | w⟩ | f | f <;> simp [eq_comm]

/-! ## Addresses and rows -/

/-- BASE + off reaches offset off (R60). -/
@[simp] theorem offsetOf_addressOf (p : Params) (off : Offset) : offsetOf p (addressOf p off) = some off := by
  have h := off.isLt
  have inBlock : p.base ≤ addressOf p off ∧ addressOf p off < p.base + 0x80 := by
    unfold addressOf
    omega
  rw [offsetOf, if_pos inBlock]
  simp [addressOf]

section
variable (v : Word) (s : State)

theorem select_rdUsr : selectRow ⟨.read, 0x7C#7, .byte, v⟩ s = .ok (.rdUsr .byte) := by
  cases h : s.dlab <;> simp only [selectRow, h] <;> rfl

theorem select_rdLsr : selectRow ⟨.read, 0x14#7, .word, v⟩ s = .ok .rdLsr := by
  cases h : s.dlab <;> simp only [selectRow, h] <;> rfl

theorem select_rdLcr : selectRow ⟨.read, 0x0C#7, .word, v⟩ s = .ok .rdLcr := by
  cases h : s.dlab <;> simp only [selectRow, h] <;> rfl

theorem select_wrLcr : selectRow ⟨.write, 0x0C#7, .word, v⟩ s = .ok (.wrLcr v) := by
  cases h : s.dlab <;> simp only [selectRow, h] <;> rfl

/-- Offset 0x00, read: RBR or DLL as DLAB says (R81). -/
theorem select_read_00 :
    selectRow ⟨.read, 0x00#7, .word, v⟩ s = .ok (if s.dlab then .rdDll else .rdRbr) := by
  cases h : s.dlab <;> simp only [selectRow, h] <;> rfl

/-- Offset 0x00, write: THR or DLL as DLAB says (R81). -/
theorem select_write_00 :
    selectRow ⟨.write, 0x00#7, .word, v⟩ s = .ok (if s.dlab then .wrDll v else .wrThr v) := by
  cases h : s.dlab <;> simp only [selectRow, h] <;> rfl

/-- Offset 0x04, read: IER or DLH as DLAB says (R81). -/
theorem select_read_04 :
    selectRow ⟨.read, 0x04#7, .word, v⟩ s = .ok (if s.dlab then .rdDlh else .rdIer) := by
  cases h : s.dlab <;> simp only [selectRow, h] <;> rfl

/-- Offset 0x04, write: IER or DLH as DLAB says (R81). -/
theorem select_write_04 :
    selectRow ⟨.write, 0x04#7, .word, v⟩ s = .ok (if s.dlab then .wrDlh v else .wrIer v) := by
  cases h : s.dlab <;> simp only [selectRow, h] <;> rfl

end

/-! ## MemRead and MemWrite with the gate ON -/

section
variable {s : State} (hg : s.gate = .on)
include hg

theorem memRead_usr :
    memRead 0x7C#7 .byte s = .next (s.drew, byteWord (s.usr (s.free.extractLsb' 0 3))) := by
  simp [memRead, accessAt, busAccess, select_rdUsr, runRow, rowRdUsr, hg]

theorem memRead_lsr :
    memRead 0x14#7 .word s =
      .next (s.drew, s.free.extractLsb' 8 24 ++ s.lsr (s.free.extractLsb' 0 7)) := by
  simp [memRead, accessAt, busAccess, select_rdLsr, runRow, rowRdLsr, readByteReg, hg]

theorem memRead_lcr : memRead 0x0C#7 .word s = .next (s.drew, s.free.extractLsb' 8 24 ++ s.lcr) := by
  simp [memRead, accessAt, busAccess, select_rdLcr, runRow, rowRdLcr, readByteReg, hg]

theorem memRead_ier (hd : s.dlab = false) :
    memRead 0x04#7 .word s = .next (s.drew, s.free.extractLsb' 8 24 ++ s.ier) := by
  simp [memRead, accessAt, busAccess, select_read_04, hd, runRow, rowRdIer, readByteReg, hg]

theorem memRead_dlh (hd : s.dlab = true) :
    memRead 0x04#7 .word s = .next (s.drew, s.free.extractLsb' 8 24 ++ s.dlh) := by
  simp [memRead, accessAt, busAccess, select_read_04, hd, runRow, rowRdDlh, readByteReg, hg]

theorem memRead_rbr (hd : s.dlab = false) {c : Byte} {q : List Byte} (hq : s.rxq = c :: q) :
    memRead 0x00#7 .word s = .next (State.drew { s with rxq := q }, s.free.extractLsb' 8 24 ++ c) := by
  simp [memRead, accessAt, busAccess, select_read_00, hd, runRow, rowRdRbr, readByteReg, hg, hq, State.free]

theorem memRead_rbr_empty (hd : s.dlab = false) (hq : s.rxq = []) :
    memRead 0x00#7 .word s = .fault (.rxUnderflow 0x00#7) := by
  simp [memRead, accessAt, busAccess, select_read_00, hd, runRow, rowRdRbr, hg, hq]

theorem memRead_dll (hd : s.dlab = true) :
    memRead 0x00#7 .word s = .next (s.drew, s.free.extractLsb' 8 24 ++ s.dll) := by
  simp [memRead, accessAt, busAccess, select_read_00, hd, runRow, rowRdDll, readByteReg, hg]

variable (b : Byte)

theorem memWrite_thr (hd : s.dlab = false) (hq : s.txq.length ≠ s.par.txDepth) :
    memWrite 0x00#7 .word (byteWord b) s = .next { s with txq := s.txq ++ [b] } := by
  simp [memWrite, accessAt, busAccess, select_write_00, hd, runRow, rowWrThr, hg, hq]

theorem memWrite_thr_full (hd : s.dlab = false) (hq : s.txq.length = s.par.txDepth) :
    memWrite 0x00#7 .word (byteWord b) s = .fault (.txOverflow b) := by
  simp [memWrite, accessAt, busAccess, select_write_00, hd, runRow, rowWrThr, hg, hq]

theorem memWrite_ier (hd : s.dlab = false) :
    memWrite 0x04#7 .word (byteWord b) s = .next { s with ier := b } := by
  simp [memWrite, accessAt, busAccess, select_write_04, hd, runRow, rowWrIer, hg]

/-- A guarded write, lost or not (R103, R107, R111). -/
theorem memWrite_dll (hd : s.dlab = true) :
    memWrite 0x00#7 .word (byteWord b) s =
      .next (if s.par.lcrBusyGuard && s.busy then s else { s with dll := b }) := by
  simp only [memWrite, accessAt, busAccess, select_write_00, hd, runRow, rowWrDll, busyGuarded,
    offsetOf_addressOf, gated_on _ _ _ _ _ hg, lowByte_byteWord, if_true]
  split <;> rfl

theorem memWrite_dlh (hd : s.dlab = true) :
    memWrite 0x04#7 .word (byteWord b) s =
      .next (if s.par.lcrBusyGuard && s.busy then s else { s with dlh := b }) := by
  simp only [memWrite, accessAt, busAccess, select_write_04, hd, runRow, rowWrDlh, busyGuarded,
    offsetOf_addressOf, gated_on _ _ _ _ _ hg, lowByte_byteWord, if_true]
  split <;> rfl

theorem memWrite_lcr :
    memWrite 0x0C#7 .word (byteWord b) s =
      .next (if s.par.lcrBusyGuard && s.busy then s else { s with lcr := b }) := by
  simp only [memWrite, accessAt, busAccess, select_wrLcr, runRow, rowWrLcr, busyGuarded,
    offsetOf_addressOf, gated_on _ _ _ _ _ hg, lowByte_byteWord]
  split <;> rfl

end

/-! ## What an access can answer, whatever the state -/

/-- The gate is OFF or ON. -/
theorem State.gate_cases (s : State) : s.gate = .off ∨ s.gate = .on := by
  cases s.gate <;> simp

section
variable {s u : State} {w : Word} {b : Byte}

/-- An access with the gate OFF faults, at every offset the engine uses (R222). -/
theorem memRead_off (hg : s.gate = .off) {off : Offset} {n : Width}
    (hoff : (off, n) = (0x7C#7, .byte) ∨ (off, n) = (0x14#7, .word) ∨ (off, n) = (0x0C#7, .word) ∨
      (off, n) = (0x04#7, .word) ∨ (off, n) = (0x00#7, .word)) :
    memRead off n s = .fault (.gatedAccess .read off n) := by
  rcases hoff with h | h | h | h | h <;> obtain ⟨rfl, rfl⟩ := Prod.mk.inj h <;>
    cases hd : s.dlab <;>
    simp only [memRead, accessAt, busAccess, offsetOf_addressOf, select_rdUsr, select_rdLsr, select_rdLcr,
      select_read_04, select_read_00, hd, runRow, rowRdUsr, rowRdLsr, rowRdLcr, rowRdIer, rowRdDlh,
      rowRdRbr, rowRdDll, usrReadWidth, gated_off _ _ _ _ _ hg, andThen_fault, if_true, if_false,
      Bool.false_eq_true]

/-- A write with the gate OFF faults. -/
theorem memWrite_off (hg : s.gate = .off) {off : Offset}
    (hoff : off = 0x0C#7 ∨ off = 0x04#7 ∨ off = 0x00#7) (v : Word) :
    memWrite off .word v s = .fault (.gatedAccess .write off .word) := by
  rcases hoff with rfl | rfl | rfl <;> cases hd : s.dlab <;>
    simp only [memWrite, accessAt, busAccess, offsetOf_addressOf, select_wrLcr, select_write_04,
      select_write_00, hd, runRow, rowWrLcr, rowWrIer, rowWrDlh, rowWrThr, rowWrDll,
      gated_off _ _ _ _ _ hg, andThen_fault, if_true, if_false, Bool.false_eq_true]

/-- A read that has no side effect answers the state after one draw. -/
theorem memRead_pure_next {off : Offset} {n : Width}
    (hoff : (off, n) = (0x7C#7, .byte) ∨ (off, n) = (0x14#7, .word) ∨ (off, n) = (0x0C#7, .word) ∨
      (off, n) = (0x04#7, .word))
    (h : memRead off n s = .next (u, w)) : s.gate = .on ∧ u = s.drew := by
  rcases s.gate_cases with hg | hg
  · rw [memRead_off hg (by rcases hoff with h | h | h | h <;> simp [h])] at h
    cases h
  · refine ⟨hg, ?_⟩
    rcases hoff with e | e | e | e <;> obtain ⟨rfl, rfl⟩ := Prod.mk.inj e
    · rw [memRead_usr hg] at h; cases h; rfl
    · rw [memRead_lsr hg] at h; cases h; rfl
    · rw [memRead_lcr hg] at h; cases h; rfl
    · cases hd : s.dlab
      · rw [memRead_ier hg hd] at h; cases h; rfl
      · rw [memRead_dlh hg hd] at h; cases h; rfl

/-- A read at 0x00 pops the receive FIFO, or with DLAB = 1 reads DLL. -/
theorem memRead_00_next (h : memRead 0x00#7 .word s = .next (u, w)) :
    s.gate = .on ∧
      ((s.dlab = false ∧ ∃ c q, s.rxq = c :: q ∧ u = State.drew { s with rxq := q } ∧ lowByte w = c) ∨
        (s.dlab = true ∧ u = s.drew)) := by
  rcases s.gate_cases with hg | hg
  · rw [memRead_off hg (by simp)] at h; cases h
  · refine ⟨hg, ?_⟩
    cases hd : s.dlab with
    | true => rw [memRead_dll hg hd] at h; cases h; exact .inr ⟨rfl, rfl⟩
    | false =>
      rcases hq : s.rxq with _ | ⟨c, q⟩
      · rw [memRead_rbr_empty hg hd hq] at h; cases h
      · rw [memRead_rbr hg hd hq] at h
        cases h
        exact .inl ⟨rfl, c, q, rfl, rfl, lowByte_append _ _⟩

/-- A write at 0x00 pushes the transmit FIFO, or with DLAB = 1 writes DLL or is lost. -/
theorem memWrite_00_next (h : memWrite 0x00#7 .word (byteWord b) s = .next u) :
    s.gate = .on ∧
      ((s.dlab = false ∧ s.txq.length ≠ s.par.txDepth ∧ u = { s with txq := s.txq ++ [b] }) ∨
        (s.dlab = true ∧ u = if s.par.lcrBusyGuard && s.busy then s else { s with dll := b })) := by
  rcases s.gate_cases with hg | hg
  · rw [memWrite_off hg (by simp)] at h; cases h
  · refine ⟨hg, ?_⟩
    cases hd : s.dlab with
    | true => rw [memWrite_dll hg b hd] at h; cases h; exact .inr ⟨rfl, rfl⟩
    | false =>
      by_cases hq : s.txq.length = s.par.txDepth
      · rw [memWrite_thr_full hg b hd hq] at h; cases h
      · rw [memWrite_thr hg b hd hq] at h; cases h; exact .inl ⟨rfl, hq, rfl⟩

/-- A write at 0x04 writes IER, or with DLAB = 1 writes DLH or is lost. -/
theorem memWrite_04_next (h : memWrite 0x04#7 .word (byteWord b) s = .next u) :
    s.gate = .on ∧
      ((s.dlab = false ∧ u = { s with ier := b }) ∨
        (s.dlab = true ∧ u = if s.par.lcrBusyGuard && s.busy then s else { s with dlh := b })) := by
  rcases s.gate_cases with hg | hg
  · rw [memWrite_off hg (by simp)] at h; cases h
  · refine ⟨hg, ?_⟩
    cases hd : s.dlab with
    | true => rw [memWrite_dlh hg b hd] at h; cases h; exact .inr ⟨rfl, rfl⟩
    | false => rw [memWrite_ier hg b hd] at h; cases h; exact .inl ⟨rfl, rfl⟩

/-- A write at 0x0C writes LCR or is lost. -/
theorem memWrite_0C_next (h : memWrite 0x0C#7 .word (byteWord b) s = .next u) :
    s.gate = .on ∧ u = if s.par.lcrBusyGuard && s.busy then s else { s with lcr := b } := by
  rcases s.gate_cases with hg | hg
  · rw [memWrite_off hg (by simp)] at h; cases h
  · rw [memWrite_lcr hg b] at h; cases h; exact ⟨hg, rfl⟩

end

end Sys2Proof.Machine
end

