-- ==== Sys2Proof/Laws/Engine.lean ====
section
/-! SUPPORT. What the commands' shared operations can answer, and what each phase of a command does with the
gate ON. -/

namespace Sys2Proof.Machine

/-! ## Shared operations -/

section
variable {s t : State}

/-- The admission check lets exactly the admitted commands through (R167). -/
theorem whenAdmitted_eq_next {op : CommandOp} {k : Outcome} :
    whenAdmitted op s k = .next t ↔ admitted s.cur s.hs op = true ∧ k = .next t := by
  unfold whenAdmitted
  split <;> simp_all

/-- DIVISOR lets a step through exactly where it gives a divisor (R143). -/
theorem withDivisor_eq_next {baud : Word} {k : Divisor → Outcome} :
    withDivisor s baud k = .next t ↔ ∃ d, divisor s.par.clkHz baud.toNat = .ok d ∧ k d = .next t := by
  unfold withDivisor currentFrequency
  split <;> simp_all

/-- The divisor's fault cases: there are none. -/
theorem withDivisor_eq_fault {baud : Word} {k : Divisor → Outcome} {f : Fault} :
    withDivisor s baud k = .fault f ↔ ∃ d, divisor s.par.clkHz baud.toNat = .ok d ∧ k d = .fault f := by
  unfold withDivisor currentFrequency
  split <;> simp_all

/-- A read into `t`. -/
theorem readT_eq_next {off : Offset} {p : Phase} :
    readT off p s = .next t ↔ ∃ u w, memRead off .word s = .next (u, w) ∧ (u.setT w).toPhase p = t := by
  simp only [readT, andThen_eq_next, Prod.exists, Host.Outcome.next.injEq]

/-- A register write. -/
theorem writeReg_eq_next {off : Offset} {b : Byte} {p : Phase} :
    writeReg off b p s = .next t ↔ ∃ u, memWrite off .word (byteWord b) s = .next u ∧ u.toPhase p = t := by
  simp only [writeReg, andThen_eq_next, Host.Outcome.next.injEq]

end

/-! ## DIVISOR -/

/-- DIVISOR's result where it does not refuse (R143). -/
theorem divisor_eq_ok {c b : Nat} {d : Divisor} :
    divisor c b = .ok d ↔
      b ≠ 0 ∧ 16 * b ≤ 2 ^ 32 - 1 ∧ c + 8 * b ≤ 2 ^ 32 - 1 ∧
        d = BitVec.ofNat 16 ((c + 8 * b) / (16 * b)) := by
  unfold divisor
  split
  · simp_all
  · split
    · simp only [reduceCtorEq, false_iff]
      omega
    · constructor
      · intro h
        cases h
        refine ⟨by assumption, ?_, ?_, rfl⟩ <;> omega
      · rintro ⟨_, _, _, rfl⟩
        rfl

/-! ## The polls and data accesses of a command, gate ON -/

section
variable {s : State} (hg : s.gate = .on)
include hg

/-- WB_POLL (R162): one draw, and WB_PUSH next where the status shows room. -/
theorem execWriteByte_poll (b : Byte) (hp : s.self.phase = .wbPoll) :
    execWriteByte b s =
      .next (if s.showsRoom then s.drew.toPhase .wbPush else s.drew) := by
  have seen : txReady s.par.txPoll (s.usr (s.free.extractLsb' 0 3)) = s.showsRoom := by
    cases ht : s.par.txPoll <;> simp [txReady, State.showsRoom, ht]
  simp only [execWriteByte, hp, memRead_usr hg, andThen_next, lowByte_byteWord, seen]
  split <;> rfl

/-- WB_PUSH (R162), DLAB = 0 and room in the FIFO: the byte is at its tail. -/
theorem execWriteByte_push (b : Byte) (hp : s.self.phase = .wbPush) (hd : s.dlab = false)
    (hq : s.txq.length ≠ s.par.txDepth) :
    execWriteByte b s = .next (State.complete { s with txq := s.txq ++ [b] } 1) := by
  simp only [execWriteByte, hp, memWrite_thr hg b hd hq, andThen_next]

/-- FL_POLL (R163): complete exactly where the FIFO is empty. -/
theorem execFlush_poll (hp : s.self.phase = .flPoll) :
    execFlush s = .next (if s.tfe then s.drew.complete 1 else s.drew) := by
  simp only [execFlush, hp, memRead_usr hg, andThen_next, lowByte_byteWord, statusDecode_usr]
  split <;> rfl

/-- RB_POLL (R164): RB_POP next where DR = 1. -/
theorem execReadByte_poll (hp : s.self.phase = .rbPoll) :
    execReadByte s = .next (if s.dr then s.drew.toPhase .rbPop else s.drew) := by
  simp only [execReadByte, hp, memRead_lsr hg, andThen_next, bitSet_append_low _ _ 0 (by omega), bitSet_lsr]
  split <;> rfl

/-- RB_POP (R164), DLAB = 0: the head of the receive FIFO is delivered. -/
theorem execReadByte_pop (hp : s.self.phase = .rbPop) (hd : s.dlab = false) {c : Byte} {q : List Byte}
    (hq : s.rxq = c :: q) :
    execReadByte s = .next (((State.drew { s with rxq := q }).deliverByte c).complete 1) := by
  simp only [execReadByte, hp, memRead_rbr hg hd hq, andThen_next, lowByte_append]

end

/-! ## CONFIGURE's phases (R161), LCR_BUSY_GUARD lost writes included -/

section
variable {s : State} (wl : WordLength) (st : StopBits) (par : Parity) (baud : Word)

theorem execConfigure_gate (hp : s.self.phase = .cfGate) :
    execConfigure wl st par baud s = .next (s.blockReset.toPhase .cfIerRd) := by
  simp only [execConfigure, hp, gateReset_own]

variable (hg : s.gate = .on)
include hg

theorem execConfigure_ierRd (hp : s.self.phase = .cfIerRd) (hd : s.dlab = false) :
    execConfigure wl st par baud s =
      .next ((s.drew.setT (s.free.extractLsb' 8 24 ++ s.ier)).toPhase .cfIerWr) := by
  simp only [execConfigure, hp, readT, memRead_ier hg hd, andThen_next]

theorem execConfigure_ierWr (hp : s.self.phase = .cfIerWr) (hd : s.dlab = false) :
    execConfigure wl st par baud s =
      .next (State.toPhase { s with ier := lowByte s.self.t &&& 0xF0#8 } .cfDiv) := by
  simp only [execConfigure, hp, writeReg, memWrite_ier hg _ hd, andThen_next]

theorem execConfigure_lcrRd1 (hp : s.self.phase = .cfLcrRd1) :
    execConfigure wl st par baud s =
      .next ((s.drew.setT (s.free.extractLsb' 8 24 ++ s.lcr)).toPhase .cfLcrSet) := by
  simp only [execConfigure, hp, readT, memRead_lcr hg, andThen_next]

theorem execConfigure_lcrSet (hp : s.self.phase = .cfLcrSet) :
    execConfigure wl st par baud s =
      .next (State.toPhase (if s.par.lcrBusyGuard && s.busy then s
        else { s with lcr := lowByte s.self.t ||| 0x80#8 }) .cfDll) := by
  simp only [execConfigure, hp, writeReg, memWrite_lcr hg, andThen_next]

theorem execConfigure_dll (hp : s.self.phase = .cfDll) (hd : s.dlab = true) :
    execConfigure wl st par baud s =
      .next (State.toPhase (if s.par.lcrBusyGuard && s.busy then s
        else { s with dll := s.self.d.extractLsb' 0 8 }) .cfDlh) := by
  simp only [execConfigure, hp, writeReg, memWrite_dll hg _ hd, andThen_next]

theorem execConfigure_dlh (hp : s.self.phase = .cfDlh) (hd : s.dlab = true) :
    execConfigure wl st par baud s =
      .next (State.toPhase (if s.par.lcrBusyGuard && s.busy then s
        else { s with dlh := s.self.d.extractLsb' 8 8 }) .cfLcrClr) := by
  simp only [execConfigure, hp, writeReg, memWrite_dlh hg _ hd, andThen_next]

theorem execConfigure_lcrClr (hp : s.self.phase = .cfLcrClr) :
    execConfigure wl st par baud s =
      .next (State.toPhase (if s.par.lcrBusyGuard && s.busy then s
        else { s with lcr := lowByte s.self.t &&& 0x7F#8 }) .cfLcrRd2) := by
  simp only [execConfigure, hp, writeReg, memWrite_lcr hg, andThen_next]

theorem execConfigure_lcrRd2 (hp : s.self.phase = .cfLcrRd2) :
    execConfigure wl st par baud s =
      .next ((s.drew.setT (s.free.extractLsb' 8 24 ++ s.lcr)).toPhase .cfLcrWr) := by
  simp only [execConfigure, hp, readT, memRead_lcr hg, andThen_next]

theorem execConfigure_lcrWr (hp : s.self.phase = .cfLcrWr) :
    execConfigure wl st par baud s =
      .next (State.complete
        { (if s.par.lcrBusyGuard && s.busy then s
            else { s with
              lcr := (lowByte s.self.t &&& 0xC0#8) ||| (lcrEncode wl st par).setWidth 8 }) with
          hs := .serial } 2) := by
  simp only [execConfigure, hp, memWrite_lcr hg, andThen_next]

end

end Sys2Proof.Machine
end

