-- ==== Sys2Proof/Laws/Commands.lean ====
section
/-! SUPPORT. What each command's step can be when it answers a next state, said once: the claims about all steps
take a command apart with these and never unfold it. -/

namespace Sys2Proof.Machine

section
variable {s t : State}

/-- What a register write of CONFIGURE can change: one of IER, LCR, DLL and DLH, or, where DLAB is 0 at the write
of 0x00, the transmit FIFO (R161, R258). -/
def RegisterWrite (s u : State) : Prop :=
  u = { s with ier := u.ier, lcr := u.lcr, dll := u.dll, dlh := u.dlh, txq := u.txq } ∧
    (u.txq = s.txq ∨ (s.txq.length ≠ s.par.txDepth ∧ ∃ b, u.txq = s.txq ++ [b]))

/-- A guarded write changes one register or none. -/
theorem RegisterWrite.guarded {c : Bool} {v : State} (h : v = { s with
    ier := v.ier, lcr := v.lcr, dll := v.dll, dlh := v.dlh }) :
    RegisterWrite s (if c then s else v) := by
  cases c
  · exact ⟨by rw [h]; rfl, .inl (by rw [h]; rfl)⟩
  · exact ⟨rfl, .inl rfl⟩

theorem registerWrite_00 {b : Byte} {u : State} (h : memWrite 0x00#7 .word (byteWord b) s = .next u) :
    s.gate = .on ∧ RegisterWrite s u := by
  obtain ⟨hg, ⟨_, hq, rfl⟩ | ⟨_, rfl⟩⟩ := memWrite_00_next h
  · exact ⟨hg, rfl, .inr ⟨hq, b, rfl⟩⟩
  · exact ⟨hg, .guarded rfl⟩

theorem registerWrite_04 {b : Byte} {u : State} (h : memWrite 0x04#7 .word (byteWord b) s = .next u) :
    s.gate = .on ∧ RegisterWrite s u ∧ u.txq = s.txq := by
  obtain ⟨hg, ⟨_, rfl⟩ | ⟨_, rfl⟩⟩ := memWrite_04_next h
  · exact ⟨hg, ⟨rfl, .inl rfl⟩, rfl⟩
  · refine ⟨hg, .guarded rfl, ?_⟩
    split <;> rfl

theorem registerWrite_0C {b : Byte} {u : State} (h : memWrite 0x0C#7 .word (byteWord b) s = .next u) :
    s.gate = .on ∧ RegisterWrite s u ∧ u.txq = s.txq := by
  obtain ⟨hg, rfl⟩ := memWrite_0C_next h
  refine ⟨hg, .guarded rfl, ?_⟩
  split <;> rfl

/-- CONFIGURE's next states: the fetch, the gate reset, the divisor, a read into `t`, a register write, and the
last write with the handle's move (R161). -/
theorem execConfigure_next {wl : WordLength} {st : StopBits} {par : Parity} {baud : Word}
    (h : execConfigure wl st par baud s = .next t) :
    (s.self.phase = .idle ∧ admitted s.cur s.hs .configure = true ∧
        (∃ d, divisor s.par.clkHz baud.toNat = .ok d) ∧ t = s.toPhase .cfGate) ∨
      (s.self.phase = .cfGate ∧ t = s.blockReset.toPhase .cfIerRd) ∨
      (s.self.phase = .cfDiv ∧ ∃ d, divisor s.par.clkHz baud.toNat = .ok d ∧ t = (s.setD d).toPhase .cfLcrRd1) ∨
      (∃ p q, (p, q) ∈ [(Phase.cfIerRd, Phase.cfIerWr), (.cfLcrRd1, .cfLcrSet), (.cfLcrRd2, .cfLcrWr)] ∧
        s.self.phase = p ∧ s.gate = .on ∧ ∃ w, t = (s.drew.setT w).toPhase q) ∨
      (∃ p q, (p, q) ∈ [(Phase.cfIerWr, Phase.cfDiv), (.cfLcrSet, .cfDll), (.cfDll, .cfDlh),
          (.cfDlh, .cfLcrClr), (.cfLcrClr, .cfLcrRd2)] ∧
        s.self.phase = p ∧ s.gate = .on ∧
          ∃ u, RegisterWrite s u ∧ (p ≠ .cfDll → u.txq = s.txq) ∧ t = u.toPhase q) ∨
      (s.self.phase = .cfLcrWr ∧ s.gate = .on ∧
        ∃ u, RegisterWrite s u ∧ u.txq = s.txq ∧ t = State.complete { u with hs := .serial } 2) := by
  unfold execConfigure at h
  split at h
  all_goals try simp only [whenAdmitted_eq_next, withDivisor_eq_next, readT_eq_next, writeReg_eq_next, andThen_eq_next,
    Host.Outcome.next.injEq, gateReset_own] at h
  case h_1 hp =>
    obtain ⟨ha, d, hd, rfl⟩ := h
    exact .inl ⟨hp, ha, ⟨d, hd⟩, rfl⟩
  case h_2 hp => exact .inr (.inl ⟨hp, h.symm⟩)
  case h_5 hp =>
    obtain ⟨d, hd, rfl⟩ := h
    exact .inr (.inr (.inl ⟨hp, d, hd, rfl⟩))
  case h_3 hp | h_6 hp | h_11 hp =>
    obtain ⟨u, w, hu, rfl⟩ := h
    obtain ⟨hg, rfl⟩ := memRead_pure_next (by simp) hu
    exact .inr (.inr (.inr (.inl ⟨_, _, by simp, hp, hg, w, rfl⟩)))
  case h_4 hp | h_9 hp =>
    obtain ⟨u, hu, rfl⟩ := h
    obtain ⟨hg, hw, hq⟩ := registerWrite_04 hu
    exact .inr (.inr (.inr (.inr (.inl ⟨_, _, by simp, hp, hg, u, hw, fun _ => hq, rfl⟩))))
  case h_7 hp | h_10 hp =>
    obtain ⟨u, hu, rfl⟩ := h
    obtain ⟨hg, hw, hq⟩ := registerWrite_0C hu
    exact .inr (.inr (.inr (.inr (.inl ⟨_, _, by simp, hp, hg, u, hw, fun _ => hq, rfl⟩))))
  case h_8 hp =>
    obtain ⟨u, hu, rfl⟩ := h
    obtain ⟨hg, hw⟩ := registerWrite_00 hu
    exact .inr (.inr (.inr (.inr (.inl ⟨_, _, by simp, hp, hg, u, hw, by simp, rfl⟩))))
  case h_12 hp =>
    obtain ⟨u, hu, rfl⟩ := h
    obtain ⟨hg, hw, hq⟩ := registerWrite_0C hu
    exact .inr (.inr (.inr (.inr (.inr ⟨hp, hg, u, hw, hq, rfl⟩))))
  case h_13 => cases h

/-- WRITE_BYTE's next states (R162): the fetch, a poll, and the push, which with DLAB = 1 reaches DLL. -/
theorem execWriteByte_next {b : Byte} (h : execWriteByte b s = .next t) :
    (s.self.phase = .idle ∧ admitted s.cur s.hs .writeByte = true ∧ t = s.toPhase .wbPoll) ∨
      (s.self.phase = .wbPoll ∧ s.gate = .on ∧
        ((s.showsRoom = true ∧ t = s.drew.toPhase .wbPush) ∨ (s.showsRoom = false ∧ t = s.drew))) ∨
      (s.self.phase = .wbPush ∧ s.gate = .on ∧
        ((s.dlab = false ∧ s.txq.length ≠ s.par.txDepth ∧
            t = State.complete { s with txq := s.txq ++ [b] } 1) ∨
          (s.dlab = true ∧
            t = State.complete (if s.par.lcrBusyGuard && s.busy then s else { s with dll := b }) 1))) := by
  cases hp : s.self.phase
  case idle =>
    simp only [execWriteByte, hp, whenAdmitted_eq_next, Host.Outcome.next.injEq] at h
    exact .inl ⟨rfl, h.1, h.2.symm⟩
  case wbPoll =>
    refine .inr (.inl ⟨rfl, ?_⟩)
    rcases s.gate_cases with hg | hg
    · simp only [execWriteByte, hp, memRead_off hg (.inl rfl), andThen_fault] at h
      cases h
    · rw [execWriteByte_poll hg b hp] at h
      cases hr : s.showsRoom <;> simp only [hr, if_true, Bool.false_eq_true, if_false] at h <;> cases h <;>
        simp [hg]
  case wbPush =>
    refine .inr (.inr ⟨rfl, ?_⟩)
    simp only [execWriteByte, hp, andThen_eq_next, Host.Outcome.next.injEq] at h
    obtain ⟨u, hu, rfl⟩ := h
    obtain ⟨hg, ⟨hd, hq, rfl⟩ | ⟨hd, rfl⟩⟩ := memWrite_00_next hu
    · exact ⟨hg, .inl ⟨hd, hq, rfl⟩⟩
    · exact ⟨hg, .inr ⟨hd, rfl⟩⟩
  all_goals (simp only [execWriteByte, hp, wrongPhase] at h; cases h)

/-- FLUSH's next states (R163): the fetch and a poll. -/
theorem execFlush_next (h : execFlush s = .next t) :
    (s.self.phase = .idle ∧ admitted s.cur s.hs .flush = true ∧ t = s.toPhase .flPoll) ∨
      (s.self.phase = .flPoll ∧ s.gate = .on ∧
        ((s.tfe = true ∧ t = s.drew.complete 1) ∨ (s.tfe = false ∧ t = s.drew))) := by
  cases hp : s.self.phase
  case idle =>
    simp only [execFlush, hp, whenAdmitted_eq_next, Host.Outcome.next.injEq] at h
    exact .inl ⟨rfl, h.1, h.2.symm⟩
  case flPoll =>
    refine .inr ⟨rfl, ?_⟩
    rcases s.gate_cases with hg | hg
    · simp only [execFlush, hp, memRead_off hg (.inl rfl), andThen_fault] at h
      cases h
    · rw [execFlush_poll hg hp] at h
      cases hr : s.tfe <;> simp only [hr, if_true, Bool.false_eq_true, if_false] at h <;> cases h <;>
        simp [hg]
  all_goals (simp only [execFlush, hp, wrongPhase] at h; cases h)

/-- READ_BYTE's next states (R164): the fetch, a poll, and the pop, which with DLAB = 1 reads DLL. -/
theorem execReadByte_next (h : execReadByte s = .next t) :
    (s.self.phase = .idle ∧ admitted s.cur s.hs .readByte = true ∧ t = s.toPhase .rbPoll) ∨
      (s.self.phase = .rbPoll ∧ s.gate = .on ∧
        ((s.dr = true ∧ t = s.drew.toPhase .rbPop) ∨ (s.dr = false ∧ t = s.drew))) ∨
      (s.self.phase = .rbPop ∧ s.gate = .on ∧
        ((s.dlab = false ∧ ∃ c q, s.rxq = c :: q ∧
            t = ((State.drew { s with rxq := q }).deliverByte c).complete 1) ∨
          (s.dlab = true ∧ t = (s.drew.deliverByte s.dll).complete 1))) := by
  cases hp : s.self.phase
  case idle =>
    simp only [execReadByte, hp, whenAdmitted_eq_next, Host.Outcome.next.injEq] at h
    exact .inl ⟨rfl, h.1, h.2.symm⟩
  case rbPoll =>
    refine .inr (.inl ⟨rfl, ?_⟩)
    rcases s.gate_cases with hg | hg
    · simp only [execReadByte, hp, memRead_off hg (.inr (.inl rfl)), andThen_fault] at h
      cases h
    · rw [execReadByte_poll hg hp] at h
      cases hr : s.dr <;> simp only [hr, if_true, Bool.false_eq_true, if_false] at h <;> cases h <;>
        simp [hg]
  case rbPop =>
    refine .inr (.inr ⟨rfl, ?_⟩)
    rcases s.gate_cases with hg | hg
    · simp only [execReadByte, hp, memRead_off hg (.inr (.inr (.inr (.inr rfl)))), andThen_fault] at h
      cases h
    · refine ⟨hg, ?_⟩
      cases hd : s.dlab with
      | true =>
        simp only [execReadByte, hp, memRead_dll hg hd, andThen_next, lowByte_append] at h
        cases h
        exact .inr ⟨rfl, rfl⟩
      | false =>
        cases hq : s.rxq with
        | nil =>
          simp only [execReadByte, hp, memRead_rbr_empty hg hd hq, andThen_fault] at h
          cases h
        | cons c q =>
          rw [execReadByte_pop hg hp hd hq] at h
          cases h
          exact .inl ⟨rfl, c, q, rfl, rfl⟩
  all_goals (simp only [execReadByte, hp, wrongPhase] at h; cases h)

/-- RELEASE's next states (R165). -/
theorem execRelease_next (h : execRelease s = .next t) :
    (s.self.phase = .idle ∧ admitted s.cur s.hs .release = true ∧ t = s.toPhase .rlGate) ∨
      (s.self.phase = .rlGate ∧ t = State.complete { s with gate := .off, hs := .unbound } 1) := by
  cases hp : s.self.phase
  case idle =>
    simp only [execRelease, hp, whenAdmitted_eq_next, Host.Outcome.next.injEq] at h
    exact .inl ⟨rfl, h.1, h.2.symm⟩
  case rlGate =>
    simp only [execRelease, hp, gateFree_own, Host.Outcome.next.injEq] at h
    exact .inr ⟨rfl, h.symm⟩
  all_goals (simp only [execRelease, hp, wrongPhase] at h; cases h)

/-- SPLIT's next states (R166). -/
theorem execSplit_next (h : execSplit s = .next t) :
    (s.self.phase = .idle ∧ admitted s.cur s.hs .split = true ∧ s.self.prog.length ≤ s.self.cp + 1 ∧
        t = s.toPhase .spDo) ∨
      (s.self.phase = .spDo ∧
        t = (((State.complete { s with hs := .split } 1).setLive .eng false).setLive .engTx true).setLive
          .engRx true) := by
  cases hp : s.self.phase
  case idle =>
    simp only [execSplit, hp, whenAdmitted_eq_next] at h
    obtain ⟨ha, h⟩ := h
    split at h
    · cases h
    · cases h
      exact .inl ⟨rfl, ha, by omega, rfl⟩
  case spDo =>
    simp only [execSplit, hp, Host.Outcome.next.injEq] at h
    exact .inr ⟨rfl, h.symm⟩
  all_goals (simp only [execSplit, hp, wrongPhase] at h; cases h)

end

end Sys2Proof.Machine
end

