-- ==== Sys2Proof/Laws/PerInstr.lean ====
section
/-! SUPPORT. The per-instruction family TableRow: the encoding of every well-formed instruction lies in that
instruction's row of spec/opcode_table.json. -/

namespace Sys2Proof.Laws.TableRow

/-- `match` and `mask` of a row of spec/opcode_table.json. -/
structure Row where
  pattern : Nat
  mask : Nat
  deriving DecidableEq, Repr

/-- The row of each instruction (30_encoding R82, R85). -/
def rowOf : Instr → Row
  | .rdRbr => ⟨0x400, 0x7FF⟩
  | .wrThr _ => ⟨0x480, 0x7FF⟩
  | .rdDll => ⟨0x500, 0x7FF⟩
  | .wrDll _ => ⟨0x580, 0x7FF⟩
  | .rdIer => ⟨0x404, 0x7FF⟩
  | .wrIer _ => ⟨0x484, 0x7FF⟩
  | .rdDlh => ⟨0x504, 0x7FF⟩
  | .wrDlh _ => ⟨0x584, 0x7FF⟩
  | .rdIir => ⟨0x408, 0x6FF⟩
  | .wrFcr _ => ⟨0x488, 0x6FF⟩
  | .rdLcr => ⟨0x40C, 0x6FF⟩
  | .wrLcr _ => ⟨0x48C, 0x6FF⟩
  | .rdMcr => ⟨0x410, 0x6FF⟩
  | .wrMcr _ => ⟨0x490, 0x6FF⟩
  | .rdLsr => ⟨0x414, 0x6FF⟩
  | .wrLsr _ => ⟨0x494, 0x6FF⟩
  | .rdMsr => ⟨0x418, 0x6FF⟩
  | .wrMsr _ => ⟨0x498, 0x6FF⟩
  | .rdUsr _ => ⟨0x07C, 0x2FF⟩
  | .wrUsr _ => ⟨0x0FC, 0x2FF⟩
  | .rsvd1C _ => ⟨0x41C, 0x67F⟩
  | .rsvd20 _ _ => ⟨0x420, 0x663⟩
  | .rsvd40 _ _ => ⟨0x440, 0x663⟩
  | .rsvd60 _ _ => ⟨0x460, 0x673⟩
  | .rsvd70 _ _ => ⟨0x470, 0x67B⟩
  | .rsvd78 _ => ⟨0x478, 0x67F⟩
  | .configure _ _ _ _ => ⟨0x10000000, 0xF07FFFFF⟩
  | .writeByte _ => ⟨0x20000000, 0xFFFFFF00⟩
  | .flush => ⟨0x30000000, 0xFFFFFFFF⟩
  | .readByte => ⟨0x40000000, 0xFFFFFFFF⟩
  | .release => ⟨0x50000000, 0xFFFFFFFF⟩
  | .split => ⟨0x60000000, 0xFFFFFFFF⟩

/-- The bits the table looks at: the key of an access, the first word of a command. -/
def bits : Encoding → Nat
  | .access k _ => k.toNat
  | .command ws => (ws.headD 0).toNat

/-- A well-formed instruction's encoding is in its row. -/
def Statement (i : Instr) : Prop := i.wf = true → bits (encode i) &&& (rowOf i).mask = (rowOf i).pattern

theorem rdRbr : Statement .rdRbr := fun _ => rfl
theorem wrThr (v : Word) : Statement (.wrThr v) := fun _ =>
  (by decide : (accessKey .write 0x00 .word false).toNat &&& 0x7FF = 0x480)
theorem rdDll : Statement .rdDll := fun _ => rfl
theorem wrDll (v : Word) : Statement (.wrDll v) := fun _ =>
  (by decide : (accessKey .write 0x00 .word true).toNat &&& 0x7FF = 0x580)
theorem rdIer : Statement .rdIer := fun _ => rfl
theorem wrIer (v : Word) : Statement (.wrIer v) := fun _ =>
  (by decide : (accessKey .write 0x04 .word false).toNat &&& 0x7FF = 0x484)
theorem rdDlh : Statement .rdDlh := fun _ => rfl
theorem wrDlh (v : Word) : Statement (.wrDlh v) := fun _ =>
  (by decide : (accessKey .write 0x04 .word true).toNat &&& 0x7FF = 0x584)
theorem rdIir : Statement .rdIir := fun _ => rfl
theorem wrFcr (v : Word) : Statement (.wrFcr v) := fun _ =>
  (by decide : (accessKey .write 0x08 .word false).toNat &&& 0x6FF = 0x488)
theorem rdLcr : Statement .rdLcr := fun _ => rfl
theorem wrLcr (v : Word) : Statement (.wrLcr v) := fun _ =>
  (by decide : (accessKey .write 0x0C .word false).toNat &&& 0x6FF = 0x48C)
theorem rdMcr : Statement .rdMcr := fun _ => rfl
theorem wrMcr (v : Word) : Statement (.wrMcr v) := fun _ =>
  (by decide : (accessKey .write 0x10 .word false).toNat &&& 0x6FF = 0x490)
theorem rdLsr : Statement .rdLsr := fun _ => rfl
theorem wrLsr (v : Word) : Statement (.wrLsr v) := fun _ =>
  (by decide : (accessKey .write 0x14 .word false).toNat &&& 0x6FF = 0x494)
theorem rdMsr : Statement .rdMsr := fun _ => rfl
theorem wrMsr (v : Word) : Statement (.wrMsr v) := fun _ =>
  (by decide : (accessKey .write 0x18 .word false).toNat &&& 0x6FF = 0x498)
theorem rdUsr (n : UsrWidth) : Statement (.rdUsr n) := fun _ => by cases n <;> rfl
theorem wrUsr (v : UsrValue) : Statement (.wrUsr v) := fun _ => by
  cases v with
  | byte => exact (by decide : (accessKey .write 0x7C .byte false).toNat &&& 0x2FF = 0x0FC)
  | word => exact (by decide : (accessKey .write 0x7C .word false).toNat &&& 0x2FF = 0x0FC)

/-- The bits of a 32-bit access of a reserved word do not depend on the value written. -/
theorem bits_encodeOp (off : Offset) (op : BusOp) :
    bits (encodeOp off op) =
      (accessKey (match op with | .read => .read | .write _ => .write) off .word false).toNat := by
  cases op <;> rfl

theorem rsvd1C (op : BusOp) : Statement (.rsvd1C op) := by
  have row : ∀ d : Dir, (accessKey d 0x1C .word false).toNat &&& 0x67F = 0x41C := by intro d; cases d <;> decide
  intro _
  simp only [encode, bits_encodeOp, rowOf]
  exact row _

theorem rsvd20 (off : Offset) (op : BusOp) : Statement (.rsvd20 off op) := by
  have row : ∀ d : Dir, ∀ off : Offset, inRsvd20 off = true →
      (accessKey d off .word false).toNat &&& 0x663 = 0x420 := by
    intro d; cases d <;> decide
  intro h
  simp only [encode, bits_encodeOp, rowOf]
  exact row _ off h

theorem rsvd40 (off : Offset) (op : BusOp) : Statement (.rsvd40 off op) := by
  have row : ∀ d : Dir, ∀ off : Offset, inRsvd40 off = true →
      (accessKey d off .word false).toNat &&& 0x663 = 0x440 := by
    intro d; cases d <;> decide
  intro h
  simp only [encode, bits_encodeOp, rowOf]
  exact row _ off h

theorem rsvd60 (off : Offset) (op : BusOp) : Statement (.rsvd60 off op) := by
  have row : ∀ d : Dir, ∀ off : Offset, inRsvd60 off = true →
      (accessKey d off .word false).toNat &&& 0x673 = 0x460 := by
    intro d; cases d <;> decide
  intro h
  simp only [encode, bits_encodeOp, rowOf]
  exact row _ off h

theorem rsvd70 (off : Offset) (op : BusOp) : Statement (.rsvd70 off op) := by
  have row : ∀ d : Dir, ∀ off : Offset, inRsvd70 off = true →
      (accessKey d off .word false).toNat &&& 0x67B = 0x470 := by
    intro d; cases d <;> decide
  intro h
  simp only [encode, bits_encodeOp, rowOf]
  exact row _ off h

theorem rsvd78 (op : BusOp) : Statement (.rsvd78 op) := by
  have row : ∀ d : Dir, (accessKey d 0x78 .word false).toNat &&& 0x67F = 0x478 := by intro d; cases d <;> decide
  intro _
  simp only [encode, bits_encodeOp, rowOf]
  exact row _

theorem configure (wl : WordLength) (st : StopBits) (par : Parity) (baud : Word) :
    Statement (.configure wl st par baud) := by
  have row : ∀ wl : WordLength, ∀ st : StopBits, ∀ par : Parity,
      (commandWord 0x1 (wl.code ++ (st.code ++ (par.code ++ 0#23)))).toNat &&& 0xF07FFFFF = 0x10000000 := by
    intro wl st par
    cases wl <;> cases st <;> cases par <;> decide
  exact fun _ => row wl st par

theorem writeByte (b : Byte) : Statement (.writeByte b) := by
  have row : ∀ b : Byte,
      (commandWord 0x2 (b.setWidth 28)).toNat &&& 0xFFFFFF00 = 0x20000000 := by decide
  exact fun _ => row b

theorem flush : Statement .flush := fun _ => rfl
theorem readByte : Statement .readByte := fun _ => rfl
theorem release : Statement .release := fun _ => rfl
theorem split : Statement .split := fun _ => rfl

end Sys2Proof.Laws.TableRow
end

