-- ==== Sys2Proof/Laws/Step.lean ====
section
/-! SUPPORT. What one step of the machine can be, said once: every claim about all steps goes through these. -/

namespace Sys2Proof.Machine

section
variable {s t u : State}

/-! ## advanced -/

@[simp] theorem State.advanced_gate : s.advanced.gate = s.gate := rfl
@[simp] theorem State.advanced_ier : s.advanced.ier = s.ier := rfl
@[simp] theorem State.advanced_lcr : s.advanced.lcr = s.lcr := rfl
@[simp] theorem State.advanced_dll : s.advanced.dll = s.dll := rfl
@[simp] theorem State.advanced_dlh : s.advanced.dlh = s.dlh := rfl
@[simp] theorem State.advanced_txq : s.advanced.txq = s.txq := rfl
@[simp] theorem State.advanced_txsh : s.advanced.txsh = s.txsh := rfl
@[simp] theorem State.advanced_rxq : s.advanced.rxq = s.rxq := rfl
@[simp] theorem State.advanced_rxActive : s.advanced.rxActive = s.rxActive := rfl
@[simp] theorem State.advanced_lineOut : s.advanced.lineOut = s.lineOut := rfl
@[simp] theorem State.advanced_faults : s.advanced.faults = s.faults := rfl
@[simp] theorem State.advanced_refused : s.advanced.refused = s.refused := rfl
@[simp] theorem State.advanced_hs : s.advanced.hs = s.hs := rfl
@[simp] theorem State.advanced_eng : s.advanced.eng = s.eng := rfl
@[simp] theorem State.advanced_engTx : s.advanced.engTx = s.engTx := rfl
@[simp] theorem State.advanced_engRx : s.advanced.engRx = s.engRx := rfl
@[simp] theorem State.advanced_engine (a : EngineId) : s.advanced.engine a = s.engine a := by
  cases a <;> rfl
@[simp] theorem State.advanced_par : s.advanced.par = s.par := rfl
@[simp] theorem State.advanced_port : s.advanced.port = s.port := rfl

/-! ## asking -/

@[simp] theorem asking_turn (a : Agent) : (Safety.asking s a).turn = a := rfl
@[simp] theorem asking_gate (a : Agent) : (Safety.asking s a).gate = s.gate := rfl
@[simp] theorem asking_ier (a : Agent) : (Safety.asking s a).ier = s.ier := rfl
@[simp] theorem asking_lcr (a : Agent) : (Safety.asking s a).lcr = s.lcr := rfl
@[simp] theorem asking_dll (a : Agent) : (Safety.asking s a).dll = s.dll := rfl
@[simp] theorem asking_dlh (a : Agent) : (Safety.asking s a).dlh = s.dlh := rfl
@[simp] theorem asking_txq (a : Agent) : (Safety.asking s a).txq = s.txq := rfl
@[simp] theorem asking_txsh (a : Agent) : (Safety.asking s a).txsh = s.txsh := rfl
@[simp] theorem asking_rxq (a : Agent) : (Safety.asking s a).rxq = s.rxq := rfl
@[simp] theorem asking_rxActive (a : Agent) : (Safety.asking s a).rxActive = s.rxActive := rfl
@[simp] theorem asking_lineOut (a : Agent) : (Safety.asking s a).lineOut = s.lineOut := rfl
@[simp] theorem asking_faults (a : Agent) : (Safety.asking s a).faults = s.faults := rfl
@[simp] theorem asking_refused (a : Agent) : (Safety.asking s a).refused = s.refused := rfl
@[simp] theorem asking_hs (a : Agent) : (Safety.asking s a).hs = s.hs := rfl
@[simp] theorem asking_eng (a : Agent) : (Safety.asking s a).eng = s.eng := rfl
@[simp] theorem asking_engTx (a : Agent) : (Safety.asking s a).engTx = s.engTx := rfl
@[simp] theorem asking_engRx (a : Agent) : (Safety.asking s a).engRx = s.engRx := rfl
@[simp] theorem asking_par (a : Agent) : (Safety.asking s a).par = s.par := rfl
@[simp] theorem asking_draws (a : Agent) : (Safety.asking s a).draws = s.draws := rfl
@[simp] theorem asking_tick (a : Agent) : (Safety.asking s a).tick = s.tick := rfl
@[simp] theorem asking_port (a : Agent) : (Safety.asking s a).port = s.port := rfl
@[simp] theorem asking_marked (a : Agent) : (Safety.asking s a).marked = s.marked := rfl
@[simp] theorem asking_engine (a : Agent) (e : EngineId) : (Safety.asking s a).engine e = s.engine e := by
  cases e <;> rfl
@[simp] theorem asking_enabled (a b : Agent) : (Safety.asking s a).enabled b = s.enabled b := by
  cases b with
  | engine e => cases e <;> rfl
  | transmitter => rfl
  | receiver => rfl

/-! ## The step -/

/-- A step of the agents answers the next state the agent's own step gives, advanced. -/
theorem afterStep_eq_next {o : Outcome} : afterStep o = .next t ↔ ∃ u, o = .next u ∧ t = u.advanced := by
  simp only [afterStep, andThen_eq_next, Host.Outcome.next.injEq, @eq_comm _ _ t]

/-- A step faults only where the agent's own step does. -/
theorem afterStep_eq_fault {o : Outcome} {f : Fault} : afterStep o = .fault f ↔ o = .fault f := by
  simp [afterStep, andThen_eq_fault]

/-- A marked state stays as it is (R226). -/
theorem step_marked (h : s.marked = true) : step s = .next s := if_pos h

/-- A next state is the state itself (marked), comes from the access at the port or from the chosen agent's
step, or is an idle one (no agent chosen). -/
theorem step_next_cases (h : step s = .next t) :
    (t = s ∧ s.marked = true) ∨
      (s.marked = false ∧ s.port = none ∧ s.chosen = none ∧ t = s.advanced) ∨
      (∃ req u, s.marked = false ∧ s.port = some req ∧ portStep req s = .next u ∧ t = u.advanced) ∨
      (∃ a u, s.marked = false ∧ s.port = none ∧ s.chosen = some a ∧ agentStep a s = .next u ∧
        t = u.advanced) := by
  unfold step sequencerStep at h
  split at h
  · cases h; exact .inl ⟨rfl, ‹_›⟩
  · rename_i hm
    have hm : s.marked = false := by simpa using hm
    split at h
    · obtain ⟨u, hu, ht⟩ := afterStep_eq_next.1 h
      exact .inr (.inr (.inl ⟨_, u, hm, ‹_›, hu, ht⟩))
    · split at h
      · obtain ⟨u, hu, ht⟩ := afterStep_eq_next.1 h
        exact .inr (.inr (.inr ⟨_, u, hm, ‹_›, ‹_›, hu, ht⟩))
      · cases h; exact .inr (.inl ⟨hm, ‹_›, ‹_›, rfl⟩)

/-- A fault comes from the access at the port or from the chosen agent's step. -/
theorem step_fault_cases {f : Fault} (h : step s = .fault f) :
    (∃ req, s.port = some req ∧ portStep req s = .fault f) ∨
      (∃ a, s.port = none ∧ s.chosen = some a ∧ agentStep a s = .fault f) := by
  unfold step sequencerStep at h
  split at h
  · cases h
  · split at h
    · exact .inl ⟨_, ‹_›, afterStep_eq_fault.1 h⟩
    · split at h
      · exact .inr ⟨_, ‹_›, ‹_›, afterStep_eq_fault.1 h⟩
      · cases h

/-- The agent chosen has a step. -/
theorem enabled_of_chosen {a : Agent} (h : s.chosen = some a) : s.enabled a = true :=
  List.find?_some h

/-- The agent a step takes is enabled, and the step is its own, with the bookkeeping after it. -/
theorem step_of_stepAgent {a : Agent} (h : Safety.stepAgent s = some a) :
    s.enabled a = true ∧ step s = afterStep (agentStep a s) := by
  unfold Safety.stepAgent at h
  split at h
  · cases h
  · rename_i hc
    obtain ⟨hm, hp⟩ : s.marked = false ∧ s.port = none := by simpa using hc
    exact ⟨enabled_of_chosen h, by simp [step, sequencerStep, hm, hp, h]⟩

/-- Where the state after a step has no mark, the step did not stop. -/
theorem step_next_of_unmarked (h : (Safety.advance s).marked = false) : step s = .next (Safety.advance s) := by
  unfold Safety.advance at *
  cases hs : step s with
  | next t => rfl
  | fault f => rw [hs] at h; simp [State.settle, State.markFault, State.marked] at h; split at h <;> simp_all
  | refused r => rw [hs] at h; simp [State.settle, State.markRefusal, State.marked] at h; split at h <;> simp_all

/-- The agent asked is chosen if it has a step. -/
theorem chosen_asked (h : s.enabled s.turn = true) : s.chosen = some s.turn := by
  unfold State.chosen
  cases hu : s.turn with
  | engine e => cases e <;> rw [hu] at h <;> simp [agentsFrom, List.find?_cons_of_pos, h]
  | transmitter => rw [hu] at h; simp [agentsFrom, List.find?_cons_of_pos, h]
  | receiver => rw [hu] at h; simp [agentsFrom, List.find?_cons_of_pos, h]

/-- A line agent is chosen only where it is asked (R202, R205). -/
theorem asked_of_chosen {a : Agent} (h : s.chosen = some a) (ha : ∀ e, a ≠ .engine e) : a = s.turn := by
  have hm := List.mem_of_find?_eq_some h
  cases hu : s.turn with
  | engine e => cases e <;> rw [hu] at hm <;> simp [agentsFrom, ha] at hm
  | transmitter => rw [hu] at hm; simpa [agentsFrom, ha] using hm
  | receiver => rw [hu] at hm; simpa [agentsFrom, ha] using hm

/-! ## The engine's step -/

/-- The instructions a command word can spell. -/
def isCommand : Instr → Bool
  | .configure _ _ _ _ | .writeByte _ | .flush | .readByte | .release | .split => true
  | _ => false

/-- A command word decodes to a command. -/
theorem isCommand_of_decodeCommand {ws : List Word} {i : Instr} (h : decodeCommand ws = .ok i) :
    isCommand i = true := by
  unfold decodeCommand decodeConfigure decodeBare at h
  split at h
  · cases h
  · repeat' split at h
    all_goals first | cases h; rfl | cases h

/-- An engine agent's next state is its command's. -/
theorem engineStep_eq_next {e : EngineId} :
    engineStep e s = .next u ↔
      ∃ i, decodeCommand (s.engine e).words = .ok i ∧ exec i { s with cur := e } = .next u := by
  unfold engineStep
  split <;> simp_all

/-- An engine agent's fault is its command's. -/
theorem engineStep_eq_fault {e : EngineId} {f : Fault} :
    engineStep e s = .fault f ↔
      ∃ i, decodeCommand (s.engine e).words = .ok i ∧ exec i { s with cur := e } = .fault f := by
  unfold engineStep
  split <;> simp_all

/-- A command leaves the port, what is on the line, the shift stage and the arriving character, but for CF_GATE,
which clears the last two (R161, R250). -/
theorem command_line {i : Instr} (hi : isCommand i = true) (h : exec i s = .next t) :
    t.port = s.port ∧ t.lineOut = s.lineOut ∧
      ((t.txsh = s.txsh ∧ t.rxActive = s.rxActive) ∨
        (s.self.phase = .cfGate ∧ t.txsh = none ∧ t.rxActive = false)) := by
  cases i <;> simp only [isCommand, Bool.false_eq_true] at hi
  · rcases execConfigure_next h with ⟨_, _, _, rfl⟩ | ⟨hp, rfl⟩ | ⟨_, d, _, rfl⟩ | ⟨p, q, _, _, _, w, rfl⟩ |
      ⟨p, q, _, _, _, u, ⟨hu, _⟩, _, rfl⟩ | ⟨_, _, u, ⟨hu, _⟩, _, rfl⟩
    · simp
    · exact ⟨by simp [State.blockReset], by simp [State.blockReset], .inr ⟨hp, by simp [State.blockReset]⟩⟩
    · simp
    · simp
    · rw [hu]; simp
    · rw [hu]; simp
  · rcases execWriteByte_next h with ⟨_, _, rfl⟩ | ⟨_, _, ⟨_, rfl⟩ | ⟨_, rfl⟩⟩ | ⟨_, _, ⟨_, _, rfl⟩ | ⟨_, rfl⟩⟩
    all_goals try simp
    split <;> simp
  · rcases execFlush_next h with ⟨_, _, rfl⟩ | ⟨_, _, ⟨_, rfl⟩ | ⟨_, rfl⟩⟩ <;> simp
  · rcases execReadByte_next h with ⟨_, _, rfl⟩ | ⟨_, _, ⟨_, rfl⟩ | ⟨_, rfl⟩⟩ |
      ⟨_, _, ⟨_, _, _, _, rfl⟩ | ⟨_, rfl⟩⟩ <;> simp
  · rcases execRelease_next h with ⟨_, _, rfl⟩ | ⟨_, rfl⟩ <;> simp
  · rcases execSplit_next h with ⟨_, _, _, rfl⟩ | ⟨_, rfl⟩ <;> simp

/-! ## The line agents' steps -/

/-- The transmitter's next state (R200, R201), it being enabled. -/
theorem transmitterStep_cases (he : s.enabled .transmitter = true) (h : transmitterStep s = .next u) :
    s.gate = .on ∧
      ((∃ x, s.txsh = some x ∧
          u = { s with
            lineOut := s.lineOut ++ [⟨lowBits x.char (charLength x.lcr), x.lcr, x.div⟩], txsh := none }) ∨
        (∃ c q, s.txsh = none ∧ s.txq = c :: q ∧
          u = { s with txsh := some ⟨c, s.lcr, s.dlh ++ s.dll⟩, txq := q })) := by
  simp only [State.enabled, State.canSend, State.canLoad, Bool.or_eq_true, Bool.and_eq_true, beq_iff_eq] at he
  refine ⟨by rcases he with h | h <;> simp [h], ?_⟩
  unfold transmitterStep txlSend txlLoad at h
  cases hx : s.txsh with
  | some x => simp only [hx, Option.isSome_some, if_true] at h; cases h; exact .inl ⟨x, rfl, rfl⟩
  | none =>
    cases hq : s.txq with
    | nil => simp [hx, hq] at he
    | cons c q => simp only [hx, hq, Option.isSome_none, Bool.false_eq_true, if_false] at h; cases h; exact .inr ⟨c, q, rfl, rfl, rfl⟩

/-- The receiver's next state (R202, R203), it being enabled. -/
theorem receiverStep_cases (he : s.enabled .receiver = true) (h : receiverStep s = .next u) :
    s.gate = .on ∧
      ((s.rxActive = true ∧ s.rxq.length ≠ s.par.rxDepth ∧
          ∃ c, u = State.drew { s with rxq := s.rxq ++ [c], rxActive := false }) ∨
        (s.rxActive = false ∧ u = { s with rxActive := true })) := by
  simp only [State.enabled, State.canStart, State.canReceive, Bool.or_eq_true, Bool.and_eq_true,
    beq_iff_eq] at he
  refine ⟨by rcases he with h | h <;> exact h.1, ?_⟩
  unfold receiverStep rxlDone rxlStart at h
  cases ha : s.rxActive with
  | true =>
    simp only [ha, if_true] at h
    split at h
    · cases h
    · cases h; exact .inl ⟨rfl, ‹_›, _, rfl⟩
  | false => simp only [ha, Bool.false_eq_true, if_false] at h; cases h; exact .inr ⟨rfl, rfl⟩

/-- The transmitter never stops. -/
theorem transmitterStep_ne_fault {f : Fault} : transmitterStep s ≠ .fault f := by
  unfold transmitterStep txlSend txlLoad
  repeat' split
  all_goals simp

/-- The receiver's only stop is the overrun (R203). -/
theorem receiverStep_fault {f : Fault} (h : receiverStep s = .fault f) : ∃ c, f = .rxOverrun c := by
  unfold receiverStep rxlDone rxlStart at h
  repeat' split at h
  all_goals first | cases h; exact ⟨_, rfl⟩ | cases h

/-! ## A relation that every step keeps -/

/-- What holds between a state and the next after an access, a command's step and an asked line agent's step,
whatever `cur`, the port, `tick` and the next `turn` are, holds after every step. -/
theorem step_relates {P : State → State → Prop} (stays : ∀ s, P s s) (advances : ∀ s t, P s t → P s t.advanced)
    (access : ∀ i s t, Safety.opOf i = none → exec i s = .next t → P s t)
    (takesPort : ∀ s t : State, P { s with port := none } t → P s t)
    (command : ∀ i s t, isCommand i = true → exec i s = .next t → P s t)
    (takesCur : ∀ (s t : State) (e : EngineId), P { s with cur := e } t → P s t)
    (transmitter : ∀ s t, s.turn = .transmitter → s.enabled .transmitter = true → transmitterStep s = .next t → P s t)
    (receiver : ∀ s t, s.turn = .receiver → s.enabled .receiver = true → receiverStep s = .next t → P s t)
    {s t : State} (h : step s = .next t) : P s t := by
  rcases step_next_cases h with ⟨rfl, _⟩ | ⟨_, _, _, rfl⟩ | ⟨req, u, _, _, hu, rfl⟩ | ⟨a, u, _, _, hc, hu, rfl⟩
  · exact stays _
  · exact advances _ _ (stays _)
  · refine advances _ _ (takesPort _ _ ?_)
    unfold portStep at hu
    split at hu
    · rename_i i _
      by_cases hi : isCommand i = true
      · exact command _ _ _ hi hu
      · exact access _ _ _ (by cases i <;> simp [isCommand] at hi <;> rfl) hu
    · cases hu
  · refine advances _ _ ?_
    cases a with
    | engine e =>
      obtain ⟨i, hi, hx⟩ := engineStep_eq_next.1 hu
      exact takesCur _ _ e (command _ _ _ (isCommand_of_decodeCommand hi) hx)
    | transmitter => exact transmitter _ _ (asked_of_chosen hc (by simp)).symm (enabled_of_chosen hc) hu
    | receiver => exact receiver _ _ (asked_of_chosen hc (by simp)).symm (enabled_of_chosen hc) hu

end

end Sys2Proof.Machine
end

