-- ==== Sys2Proof/Machine/Assembler.lean ====
section
/-! DEFINITION. The assembler syntax (30_encoding R89) and the pseudo-instructions (R90): what a program is
written as, before its words are loaded. No step of the machine reads this. -/

namespace Sys2Proof.Machine

/-! ## Programs and pseudo-instructions -/

/-- The words of a list of commands (R85); an access is no part of an engine program. -/
def assemble : List Instr → List Word
  | [] => []
  | i :: is =>
    match encode i with
    | .command ws => ws ++ assemble is
    | .access _ _ => assemble is

/-- `write B0, B1, ...` (R90). -/
def pseudoWrite (bs : List Byte) : List Instr := bs.map .writeByte

/-- The count `write` returns: always the length of its buffer (R90). -/
def pseudoWriteResult (bs : List Byte) : Nat := bs.length

/-- `write "text"`: the ASCII bytes of the text (R90). -/
def pseudoWriteText (t : String) : List Instr := pseudoWrite (t.toList.map fun c => BitVec.ofNat 8 c.toNat)

/-- `read N` (R90). -/
def pseudoRead (n : Nat) : List Instr := List.replicate n .readByte

/-- The count `read` returns (R90). -/
def pseudoReadResult (n : Nat) : Nat := n

/-- What `read` delivers: the next N entries of the agent's `out` from the length it had before (R90). -/
def pseudoReadBytes (before n : Nat) (out : List Byte) : List Byte := (out.drop before).take n

/-! ## Text -/

/-- A hexadecimal literal of a number of digits. -/
def hexText (digits n : Nat) : String :=
  "0x" ++ String.ofList ((List.range digits).reverse.map fun k => (n / 16 ^ k % 16).digitChar)

/-- BITS of `configure`. -/
def wordLengthText : WordLength → String
  | .five => "5"
  | .six => "6"
  | .seven => "7"
  | .eight => "8"

/-- STOP of `configure`. -/
def stopBitsText : StopBits → String
  | .one => "1"
  | .two => "2"

/-- PARITY of `configure`. -/
def parityText : Parity → String
  | .none => "none"
  | .odd => "odd"
  | .even => "even"

/-- `rd.w OFF` or `rd.b OFF`. -/
def readText (off : Offset) (n : Width) : String :=
  (if n = .byte then "rd.b " else "rd.w ") ++ hexText 2 off.toNat

/-- `wr.w OFF, VALUE` or `wr.b OFF, VALUE`. -/
def writeText (off : Offset) (n : Width) (v : Word) : String :=
  if n = .byte then "wr.b " ++ hexText 2 off.toNat ++ ", " ++ hexText 2 (lowByte v).toNat
  else "wr.w " ++ hexText 2 off.toNat ++ ", " ++ hexText 8 v.toNat

/-- A 32-bit access of a reserved word. -/
def busOpText (off : Offset) : BusOp → String
  | .read => readText off .word
  | .write v => writeText off .word v

/-- The offset form of an access and the text of a command (R89); DLAB is not written. -/
def instrText : Instr → String
  | .rdRbr => readText 0x00 .word
  | .wrThr v => writeText 0x00 .word v
  | .rdDll => readText 0x00 .word
  | .wrDll v => writeText 0x00 .word v
  | .rdIer => readText 0x04 .word
  | .wrIer v => writeText 0x04 .word v
  | .rdDlh => readText 0x04 .word
  | .wrDlh v => writeText 0x04 .word v
  | .rdIir => readText 0x08 .word
  | .wrFcr v => writeText 0x08 .word v
  | .rdLcr => readText 0x0C .word
  | .wrLcr v => writeText 0x0C .word v
  | .rdMcr => readText 0x10 .word
  | .wrMcr v => writeText 0x10 .word v
  | .rdLsr => readText 0x14 .word
  | .wrLsr v => writeText 0x14 .word v
  | .rdMsr => readText 0x18 .word
  | .wrMsr v => writeText 0x18 .word v
  | .rdUsr .byte => readText 0x7C .byte
  | .rdUsr .word => readText 0x7C .word
  | .wrUsr (.byte b) => writeText 0x7C .byte (byteWord b)
  | .wrUsr (.word w) => writeText 0x7C .word w
  | .rsvd1C op => busOpText 0x1C op
  | .rsvd20 off op => busOpText off op
  | .rsvd40 off op => busOpText off op
  | .rsvd60 off op => busOpText off op
  | .rsvd70 off op => busOpText off op
  | .rsvd78 op => busOpText 0x78 op
  | .configure wl st par baud =>
    "configure " ++ toString baud.toNat ++ ", " ++ wordLengthText wl ++ ", " ++ parityText par ++ ", " ++
      stopBitsText st
  | .writeByte b => "write_byte " ++ hexText 2 b.toNat
  | .flush => "flush"
  | .readByte => "read_byte"
  | .release => "release"
  | .split => "split"

/-- The register name of a row, for the form `rd RBR`, `wr THR, VALUE` (R89, 20_memory R62). -/
def registerName : Instr → Option String
  | .rdRbr => some "RBR"
  | .wrThr _ => some "THR"
  | .rdDll | .wrDll _ => some "DLL"
  | .rdIer | .wrIer _ => some "IER"
  | .rdDlh | .wrDlh _ => some "DLH"
  | .rdIir => some "IIR"
  | .wrFcr _ => some "FCR"
  | .rdLcr | .wrLcr _ => some "LCR"
  | .rdMcr | .wrMcr _ => some "MCR"
  | .rdLsr | .wrLsr _ => some "LSR"
  | .rdMsr | .wrMsr _ => some "MSR"
  | .rdUsr _ | .wrUsr _ => some "USR"
  | .rsvd1C _ | .rsvd20 _ _ | .rsvd40 _ _ | .rsvd60 _ _ | .rsvd70 _ _ | .rsvd78 _ => none
  | .configure _ _ _ _ | .writeByte _ | .flush | .readByte | .release | .split => none

end Sys2Proof.Machine
end

