-- ==== Sys2Proof/Tests/Slice0.lean ====
section
/-! SUPPORT. The model's own tests, each with its expected result from the spec's examples and vectors
(95_test_vectors), and for every obligation with hypotheses a witness that meets them. -/

namespace Sys2Proof.Tests

open Sys2Proof.Machine Sys2Proof.Safety

/-! ## Helpers -/

/-- The parameters the vectors assume. -/
def vectorPar : Params := ⟨0x1000, 24000000, 16, 16, 0, .busy, false⟩

/-- The launch state with the vectors' parameters. -/
def off : State := { State.reset with par := vectorPar }

/-- The same with the gate ON. -/
def on : State := { off with gate := .on }

/-- ENG with a program, at its first word. -/
def withProg (s : State) (ws : List Word) : State := { s with eng := { s.eng with prog := ws } }

/-- ENG in a phase. -/
def inPhase (s : State) (p : Phase) : State := { s with eng := { s.eng with phase := p } }

/-- A handle in SERIAL. -/
def serial : State := { on with hs := .serial, lcr := 0x03, dll := 0x0D }

/-- The halves in SPLIT. -/
def halves : State :=
  { serial with
    hs := .split, eng := { serial.eng with live := false }
    engTx := { serial.engTx with live := true, prog := [0x20000041, 0x30000000] }
    engRx := { serial.engRx with live := true, prog := [0x40000000] } }

/-- Sixteen characters, a full FIFO under the vectors' parameters. -/
def sixteen : List Byte := List.replicate 16 0x41

def nextOf : Outcome → Option State
  | .next s => some s
  | _ => none

def faultOf : Outcome → Option Fault
  | .fault f => some f
  | _ => none

def refusalOf : Outcome → Option Refusal
  | .refused r => some r
  | _ => none

/-- What a decoder's answer is worth comparing. -/
def decoded (r : Except DecodeError Instr) : Option Instr := r.toOption

/-! ## WellFormed: an ill-formed term for each check -/

theorem test_wf_rsvd20_low : (Instr.rsvd20 0x1C .read).wf = false := by decide
theorem test_wf_rsvd20_misaligned : (Instr.rsvd20 0x22 .read).wf = false := by decide
theorem test_wf_rsvd40_high : (Instr.rsvd40 0x60 .read).wf = false := by decide
theorem test_wf_rsvd60_high : (Instr.rsvd60 0x70 .read).wf = false := by decide
theorem test_wf_rsvd70_high : (Instr.rsvd70 0x78 .read).wf = false := by decide
theorem test_wf_edges :
    (Instr.rsvd20 0x20 .read).wf && (Instr.rsvd20 0x3C .read).wf && (Instr.rsvd40 0x40 .read).wf &&
      (Instr.rsvd40 0x5C .read).wf && (Instr.rsvd60 0x60 .read).wf && (Instr.rsvd60 0x6C .read).wf &&
      (Instr.rsvd70 0x70 .read).wf && (Instr.rsvd70 0x74 .read).wf = true := by decide

/-! ## Decode: a word for every constructor (keys of R82 and vectors 2.1, words of R85 and vectors 2.3) -/

theorem test_decode_offset_00 :
    [0b10000000000, 0b10010000000, 0b10100000000, 0b10110000000].map (decodeTableWord 16) =
      [some .rdRbr, some (.wrThr 0), some .rdDll, some (.wrDll 0)] := by decide
theorem test_decode_offset_04 :
    [0b10000000100, 0b10010000100, 0b10100000100, 0b10110000100].map (decodeTableWord 16) =
      [some .rdIer, some (.wrIer 0), some .rdDlh, some (.wrDlh 0)] := by decide
theorem test_decode_offset_08 :
    [0x508, 0b10010001000].map (decodeTableWord 16) = [some .rdIir, some (.wrFcr 0)] := by decide
theorem test_decode_offset_0C :
    [0b10000001100, 0x58C].map (decodeTableWord 16) = [some .rdLcr, some (.wrLcr 0)] := by decide
theorem test_decode_offset_10 :
    [0b10100010000, 0b10010010000].map (decodeTableWord 16) = [some .rdMcr, some (.wrMcr 0)] := by decide
theorem test_decode_offset_14 :
    [0x414, 0b10110010100].map (decodeTableWord 16) = [some .rdLsr, some (.wrLsr 0)] := by decide
theorem test_decode_offset_18 :
    [0b10000011000, 0b10010011000].map (decodeTableWord 16) = [some .rdMsr, some (.wrMsr 0)] := by decide
theorem test_decode_usr :
    [0x07C, 0x17C, 0x57C, 0x0FC, 0x4FC].map (decodeTableWord 16) =
      [some (.rdUsr .byte), some (.rdUsr .byte), some (.rdUsr .word), some (.wrUsr (.byte 0)),
        some (.wrUsr (.word 0))] := by decide
theorem test_decode_reserved :
    [0x41C, 0x5BC, 0x45C, 0x4EC, 0x574, 0x478].map (decodeTableWord 16) =
      [some (.rsvd1C .read), some (.rsvd20 0x3C (.write 0)), some (.rsvd40 0x5C .read),
        some (.rsvd60 0x6C (.write 0)), some (.rsvd70 0x74 .read), some (.rsvd78 .read)] := by decide
theorem test_decode_no_row :
    [0x27C, 0x000, 0x402, 0x07D, 0x600].map (decodeTableWord 16) = [none, none, none, none, none] := by decide
/-- Vectors 2.3: 8-N-1, 5-N-2, 7-E-1, 8-O-2. -/
theorem test_decode_configure :
    [[0x1C000000, 0x0001C200], [0x12000000, 1], [0x19000000, 0x00002580], [0x1E800000, 1]].map
        (fun ws => decoded (decodeCommand ws)) =
      [some (.configure .eight .one .none 115200), some (.configure .five .two .none 1),
        some (.configure .seven .one .even 9600), some (.configure .eight .two .odd 1)] := by decide
theorem test_decode_commands :
    [0x20000048, 0x30000000, 0x40000000, 0x50000000, 0x60000000].map
        (fun w => decoded (decodeCommand [w])) =
      [some (.writeByte 0x48), some .flush, some .readByte, some .release, some .split] := by decide
/-- E6 to E11: the reserved and illegal encodings, and PAR = 0b11. -/
theorem test_decode_reserved_commands :
    [[0x70000000], [0x00000000], [0x20000100], [0x30000001], [0x1C000000], [0x1C000001, 0x0001C200],
        [0x1D800000, 0x0001C200]].map (fun ws => decoded (decodeCommand ws)) =
      [none, none, none, none, none, none, none] := by decide
theorem test_table_word_configure :
    decodeTableWord 64 (0x0001C200 * 2 ^ 32 + 0x1C000000) = some (.configure .eight .one .none 115200) := by
  decide

/-! ## Register accesses (vectors A1 to A34) -/

theorem test_A1_rdRbr :
    (nextOf (exec .rdRbr { on with rxq := [0x41, 0x42], lcr := 0x03 })).map
        (fun t => (lowByte t.portData, t.rxq, t.dr)) = some (0x41, [0x42], true) := by
  simp [exec, execRdRbr, rowRdRbr, readByteReg, on, nextOf, State.dr]
theorem test_A2_rdRbr_empty :
    faultOf (exec .rdRbr { on with lcr := 0x03 }) = some (.rxUnderflow 0x00) := by decide
theorem test_A4_wrThr :
    (nextOf (exec (.wrThr 0xFFFFFF48) { on with lcr := 0x03 })).map
        (fun t => (t.txq, t.busy, t.tfnf, t.tfe)) = some ([0x48], true, true, false) := by decide
theorem test_A5_wrThr_full :
    faultOf (exec (.wrThr 0x41) { on with txq := sixteen }) = some (.txOverflow 0x41) := by decide
theorem test_A7_rdDll :
    (nextOf (exec .rdDll { on with lcr := 0x83, dll := 0x0D, rxq := [0x41] })).map
        (fun t => (lowByte t.portData, t.rxq)) = some (0x0D, [0x41]) := by
  simp [exec, execRdDll, rowRdDll, readByteReg, on, nextOf]
theorem test_A8_wrDll :
    (nextOf (exec (.wrDll 0x1A) { on with lcr := 0x83 })).map (fun t => (t.dll, t.txq)) =
      some (0x1A, []) := by decide
theorem test_A9_wrDll_lost :
    (nextOf (exec (.wrDll 0x1A)
        { on with lcr := 0x83, txq := [0x41], par := { vectorPar with lcrBusyGuard := true } })).map
      (·.dll) = some 0x00 := by decide
theorem test_A10_rdIer :
    (nextOf (exec .rdIer { on with ier := 0x0F })).map (fun t => (lowByte t.portData, t.ier)) =
      some (0x0F, 0x0F) := by
  simp [exec, execRdIer, rowRdIer, readByteReg, on, nextOf]
theorem test_A11_wrIer :
    (nextOf (exec (.wrIer 0xA0) { on with ier := 0xAF })).map (fun t => (t.ier, t.irq)) =
      some (0xA0, false) := by decide
theorem test_A12_rdDlh :
    (nextOf (exec .rdDlh { on with lcr := 0x80, dlh := 0x12, ier := 0x0F })).map
        (fun t => lowByte t.portData) = some 0x12 := by
  simp [exec, execRdDlh, rowRdDlh, readByteReg, on, nextOf]
theorem test_A13_wrDlh :
    (nextOf (exec (.wrDlh 0x00) { on with lcr := 0x80, dlh := 0x12, ier := 0x0F })).map
        (fun t => (t.dlh, t.ier)) = some (0x00, 0x0F) := by decide
theorem test_A16_rdLcr :
    (nextOf (exec .rdLcr { on with lcr := 0x03 })).map (fun t => lowByte t.portData) = some 0x03 := by
  simp [exec, execRdLcr, rowRdLcr, readByteReg, on, nextOf]
theorem test_A17_wrLcr :
    (nextOf (exec (.wrLcr 0x83) { on with lcr := 0x03 })).map
        (fun t => (t.lcr, (selectRow ⟨.read, 0x00, .word, 0⟩ t).toOption)) = some (0x83, some .rdDll) := by
  decide
theorem test_A18_wrLcr_lost :
    (nextOf (exec (.wrLcr 0x83)
        { on with lcr := 0x03, rxActive := true, par := { vectorPar with lcrBusyGuard := true } })).map
      (·.lcr) = some 0x03 := by decide
theorem test_A20_rdLsr :
    (nextOf (exec .rdLsr { on with rxq := [0x41] })).map (fun t => bitSet t.portData 0) = some true := by
  simp [exec, execRdLsr, rowRdLsr, readByteReg, on, nextOf, bitSet_append_low, State.dr]
theorem test_A21_rdLsr :
    (nextOf (exec .rdLsr on)).map (fun t => bitSet t.portData 0) = some false := by
  simp [exec, execRdLsr, rowRdLsr, readByteReg, on, nextOf, bitSet_append_low, State.dr, off, State.reset]
/-- A26: BUSY, TFNF, TFE, RFNE. -/
theorem test_A26_rdUsr_word :
    (nextOf (exec (.rdUsr .word) { on with txsh := some ⟨0x41, 0x03, 13⟩, rxq := [0x41] })).map
        (fun t => statusDecode (lowByte t.portData)) = some ⟨true, true, true, true, false⟩ := by
  simp [exec, execRdUsr, rowRdUsr, readByteReg, on, nextOf]
  decide
/-- A27: BUSY, RFNE, RFF. -/
theorem test_A27_rdUsr_byte :
    (nextOf (exec (.rdUsr .byte) { on with txq := sixteen, rxq := sixteen })).map
        (fun t => statusDecode (lowByte t.portData)) = some ⟨true, false, false, true, true⟩ := by
  simp [exec, execRdUsr, rowRdUsr, on, nextOf]
  decide
/-- A14, A15, A19, A22, A23, A30: the rows that are always refused. -/
theorem test_A14_refused_rows :
    [Instr.rdIir, .wrFcr 7, .rdMcr, .wrMcr 0x10, .wrLsr 0, .rdMsr, .wrMsr 0, .wrUsr (.byte 0)].map
        (fun i => refusalOf (exec i on)) =
      [some (.unmodelledReg 0x08), some (.unmodelledReg 0x08), some (.unmodelledReg 0x10),
        some (.unmodelledReg 0x10), some (.unmodelledReg 0x14), some (.unmodelledReg 0x18),
        some (.unmodelledReg 0x18), some (.usrWrite (.byte 0))] := by decide
/-- A31 and the other reserved rows. -/
theorem test_A31_reserved_rows :
    [Instr.rsvd1C .read, .rsvd20 0x3C (.write 0), .rsvd40 0x40 .read, .rsvd60 0x6C .read, .rsvd70 0x74 .read,
        .rsvd78 .read].map (fun i => refusalOf (exec i on)) =
      [some (.reservedOffset 0x1C), some (.reservedOffset 0x3C), some (.reservedOffset 0x40),
        some (.reservedOffset 0x6C), some (.reservedOffset 0x74), some (.reservedOffset 0x78)] := by decide
theorem test_A32_gated :
    faultOf (exec .rdLsr off) = some (.gatedAccess .read 0x14 .word) := by decide
/-- A33, A34: shape before gate, gate before the row's refusal. -/
theorem test_A33_order :
    refusalOf (deliver (busAccess ⟨.read, 0x14, .half, 0⟩ off)) = some (.badAccess .read 0x14 .half) ∧
    faultOf (deliver (busAccess ⟨.read, 0x08, .word, 0⟩ off)) = some (.gatedAccess .read 0x08 .word) := by
  decide

/-! ## The decoder's functions (vectors 2.3) -/

theorem test_lcr_encode :
    [lcrEncode .five .one .none, lcrEncode .five .two .none, lcrEncode .six .one .even,
        lcrEncode .eight .one .none, lcrEncode .eight .two .odd] = [0x00, 0x04, 0x19, 0x03, 0x0F] := by decide
theorem test_lcr_decode :
    [lcrDecode 0x1B, lcrDecode 0x1F, lcrDecode 0x10, lcrDecode 0x20, lcrDecode 0x3B] =
      [some (.eight, .one, .even), some (.eight, .two, .even), none, none, none] := by decide
/-- The DIVISOR table at its edges. -/
theorem test_divisor :
    [115200, 230400, 1000000, 600000, 3000000, 3000001, 23, 22, 1, 268435455].map
        (fun b => (divisor 24000000 b).toOption) =
      [some 0x000D, some 0x0007, some 0x0002, some 0x0003, some 0x0001, some 0x0000, some 0xFEC1,
        some 0x0A56, some 0xE360, some 0x0000] := by decide
theorem test_divisor_refused :
    [divisor 24000000 0, divisor 24000000 268435456, divisor 4294967295 1, divisor 4294967287 1].map
        (fun r => r.toOption) = [none, none, none, some 0xFFFF] := by decide
/-- S4, and bits 7:5 not examined. -/
theorem test_status_decode :
    [statusDecode 0x13, statusDecode 0xE6] =
      [⟨true, true, false, false, true⟩, ⟨false, true, true, false, false⟩] := by decide

/-! ## The engine (vectors E1 to E20) -/

theorem test_E1_configure_fetch :
    (nextOf (step (withProg off [0x1C000000, 0x0001C200]))).map (fun t => (t.eng.phase, t.gate, t.eng.cp)) =
      some (.cfGate, .off, 0) := by decide
theorem test_E2_not_admitted :
    refusalOf (step (withProg off [0x20000041])) =
      some (.wrongHandleState .eng (.notAdmitted .unbound 0x2)) := by decide
/-- E4, E5: admission is checked before the divisor. -/
theorem test_E4_baud_zero :
    [off, serial].map (fun s => refusalOf (step (withProg s [0x1C000000, 0x00000000]))) =
      [some (.baudZero 0), some (.wrongHandleState .eng (.notAdmitted .serial 0x1))] := by decide
/-- E7, E10: reserved before admission, and the BAUD word missing. -/
theorem test_E7_reserved :
    [0x00000000, 0x1C000000].map (fun w => refusalOf (step (withProg off [w]))) =
      [some (.reservedCmd .eng 0 0x00000000), some (.reservedCmd .eng 0 0x1C000000)] := by decide
theorem test_E12_split_not_last :
    refusalOf (step (withProg serial [0x60000000, 0x30000000])) =
      some (.wrongHandleState .eng (.splitNotLast 1)) := by decide
theorem test_E13_halves_admission :
    refusalOf (engineStep .engTx { halves with engTx := { halves.engTx with prog := [0x50000000] } }) =
      some (.wrongHandleState .engTx (.notAdmitted .split 0x5)) := by decide
theorem test_E16_release :
    (nextOf (step (inPhase (withProg serial [0x50000000]) .rlGate))).map
        (fun t => (t.gate, t.hs, t.eng.cp, t.eng.phase)) = some (.off, .unbound, 1, .idle) := by decide
/-- E17: with TX_POLL = TFNF a full FIFO keeps WB_POLL. -/
theorem test_E17_write_polls :
    (nextOf (execWriteByte 0x43
        (inPhase { serial with
          txq := [0x41, 0x42], par := { vectorPar with txPoll := .tfnf, txDepth := 2 } } .wbPoll))).map
      (·.eng.phase) = some .wbPoll := by
  rw [execWriteByte_poll rfl _ rfl]
  decide
theorem test_write_byte_push :
    (nextOf (step (inPhase (withProg serial [0x20000048]) .wbPush))).map
        (fun t => (t.txq, t.eng.cp, t.eng.phase)) = some ([0x48], 1, .idle) := by decide
/-- E19: FLUSH completes with the shift stage busy. -/
theorem test_E19_flush :
    (nextOf (execFlush (inPhase { serial with txsh := some ⟨0x41, 0x03, 13⟩ } .flPoll))).map
        (fun t => (t.eng.cp, t.eng.phase, t.txsh.isSome)) = some (1, .idle, true) := by
  rw [execFlush_poll rfl rfl]
  decide
/-- E20: RB_POLL stays with nothing received. -/
theorem test_E20_read_polls :
    (nextOf (execReadByte (inPhase serial .rbPoll))).map (·.eng.phase) = some .rbPoll := by
  rw [execReadByte_poll rfl rfl]
  decide
theorem test_read_byte_pop :
    (nextOf (execReadByte (inPhase { serial with rxq := [0x41] } .rbPop))).map
        (fun t => (t.eng.out, t.rxq, t.eng.cp)) = some ([0x41], [], 1) := by
  rw [execReadByte_pop rfl rfl rfl rfl]
  decide
/-- P3: SP_DO. -/
theorem test_split :
    (nextOf (step (inPhase (withProg serial [0x60000000]) .spDo))).map
        (fun t => (t.hs, t.eng.live, t.engTx.live, t.engRx.live, t.eng.cp)) =
      some (.split, false, true, true, 1) := by decide

/-! ## The line (vectors L1 to L10) and reset (Z1 to Z3) -/

theorem test_L1_load :
    (nextOf (transmitterStep { on with txq := [0x48, 0x69], lcr := 0x03, dll := 13 })).map
        (fun t => (t.txsh, t.txq)) = some (some ⟨0x48, 0x03, 0x000D⟩, [0x69]) := by decide
theorem test_L3_send :
    [TxChar.mk 0xC8 0x02 13, ⟨0xFF, 0x00, 1⟩].map
        (fun x => (nextOf (transmitterStep { on with txsh := some x, lcr := 0x1B })).map (·.lineOut)) =
      [some [⟨0x48, 0x02, 13⟩], some [⟨0x1F, 0x00, 1⟩]] := by decide
theorem test_L6_start :
    (nextOf (receiverStep on)).map (fun t => (t.rxActive, t.busy)) = some (true, true) := by decide
theorem test_L7_done :
    (nextOf (receiverStep { on with rxActive := true })).map (fun t => (t.rxq.length, t.rxActive, t.dr)) =
      some (1, false, true) := by decide
theorem test_L8_overrun :
    (faultOf (receiverStep { on with rxActive := true, rxq := sixteen })).isSome = true := by decide
theorem test_L9_gated : off.enabled .transmitter = false ∧ off.enabled .receiver = false := by decide
/-- L10: the load is enabled, and not owed with divisor 0. -/
theorem test_L10_not_owed : ({ on with txq := [0x41] } : State).canLoad = true ∧
    ¬loadOwed { on with txq := [0x41] } := by
  refine ⟨by decide, fun h => h.2.2 (by decide)⟩
theorem test_Z1_gate_reset :
    [gateReset 0 { off with
          ier := 0x5F, lcr := 0x9B, dll := 0x0D, txq := [0x41], txsh := some ⟨0x41, 0, 0⟩, rxq := [0x42]
          rxActive := true, lineOut := [⟨0x41, 0, 0⟩] }].map
        (fun t => ((t.gate, t.ier, t.lcr, t.dll), t.txq ++ t.rxq, t.txsh, t.rxActive, t.lineOut.length)) =
      [((.on, 0x00, 0x00, 0x00), [], none, false, 1)] := by decide
theorem test_Z2_gate_free : (gateFree 0 on).gate = .off ∧ (gateFree 1 on).gate = .on := by decide
theorem test_Z3_frequency : currentFrequency on = 24000000 := by decide
theorem test_frame_parity : (lineFrame ⟨0x41, 0x1F, 13⟩).parity = .value false ∧
    (lineFrame ⟨0x41, 0x04, 13⟩).stopHalfBits = 3 := by decide

/-! ## Programs (R90) and the placed instruction -/

theorem test_assemble_write :
    assemble (pseudoWriteText "Hi" ++ [.flush]) = [0x20000048, 0x20000069, 0x30000000] := by decide
theorem test_assemble_read : assemble (pseudoRead 2) = [0x40000000, 0x40000000] := by decide
theorem test_text : instrText (.wrThr 0x48) = "wr.w 0x00, 0x00000048" ∧
    instrText (.configure .eight .one .none 115200) = "configure 115200, 8, none, 1" := by decide
theorem test_placed_command :
    (nextOf (step (off.withFetchWord 32 0x20000048))).map (·.eng.phase) = some .wbPoll := by decide
theorem test_placed_access :
    (nextOf (step (off.withFetchWord 16 0x580))).map (fun t => (t.dll, t.port)) = some (0x00, none) := by decide

/-! ## Witnesses: for every obligation with hypotheses, states and operands that meet them, clause by clause -/

/-- ENG in a phase of CONFIGURE with DLAB clear, and set. -/
def cf (p : Phase) (lcr : Byte) : State := inPhase { on with lcr := lcr } p

/-- LCR_BUSY_GUARD = true with a character arriving. -/
def guardBusy : State := { on with rxActive := true, par := { vectorPar with lcrBusyGuard := true } }

theorem hyp_wf : (Instr.rsvd20 0x20 .read).wf = true ∧ (Instr.rsvd70 0x74 (.write 1)).wf = true := by decide
theorem hyp_LengthFromFirstWord : encode .flush = .command [0x30000000] := rfl
theorem hyp_DecodedIsWellFormed : decode (.access 0x420 0) = .ok (.rsvd20 0x20 .read) := rfl
theorem hyp_KeysSelectOneRow : (0x600 : AccessKey).extractLsb' 9 2 = 0b11 := by decide
theorem hyp_DlabSelects : (0x0C : Offset) ≠ 0x00 ∧ (0x0C : Offset) ≠ 0x04 := by decide
theorem hyp_ReservedCommandsRefused :
    illegalCommand 0x70000000 [] = true ∧ illegalCommand 0x1C000000 [] = true ∧
    illegalCommand 0x1C000000 [0] = false ∧ (withProg off [0x70000000]).eng.words = [0x70000000] := by decide
theorem hyp_ReadRbr : on.gate = .on ∧ ({ on with rxq := sixteen } : State).rxq.length = vectorPar.rxDepth ∧
    on.rxq = [] := by decide
theorem hyp_WriteThr : ({ on with txq := sixteen.tail } : State).txq.length ≠ vectorPar.txDepth ∧
    ({ on with txq := sixteen } : State).txq.length = vectorPar.txDepth := by decide
theorem hyp_WriteStoredRegisters : guardBusy.gate = .on ∧
    (guardBusy.par.lcrBusyGuard && guardBusy.busy) = true ∧ (on.par.lcrBusyGuard && on.busy) = false := by decide
theorem hyp_GatedAccessFaults : busShape .rdIir = some (.read, 0x08, .word) ∧
    busShape (.rsvd78 .read) = some (.read, 0x78, .word) ∧ off.gate = .off := by decide
theorem hyp_AccessProcedure : admittedShape 0x7D .byte = false ∧ admittedShape 0x7C .byte = true ∧
    admittedShape 0x78 .word = true := by decide
theorem hyp_AddressesOfTheBlock : on.par.base = 0x1000 ∧
    (on.par.base ≤ 0x107F ∧ 0x107F < on.par.base + 0x80) ∧
    ¬(on.par.base ≤ 0x1080 ∧ 0x1080 < on.par.base + 0x80) ∧
    ¬(on.par.base ≤ 0xFFF ∧ 0xFFF < on.par.base + 0x80) := by decide
theorem hyp_AccessFrame : opOf (.wrIer 1) = none ∧ ∃ t, exec (.wrIer 1) on = .next t ∧ t.ier ≠ on.ier :=
  ⟨rfl, _, rfl, by decide⟩
theorem hyp_DivisorRule : 268435456 ≠ 0 ∧ (16 * 268435456 > 2 ^ 32 - 1 ∨ 0 + 8 * 268435456 > 2 ^ 32 - 1) ∧
    16 * 268435455 ≤ 2 ^ 32 - 1 ∧ 24000000 + 8 * 268435455 ≤ 2 ^ 32 - 1 := by decide
theorem hyp_BaudValidation :
    divisor 24000000 23 = .ok 0xFEC1 ∧ (24000000 + 8 * 23) / (16 * 23) ≤ 0xFFFF ∧
    divisor 24000000 22 = .ok 0x0A56 ∧ 0xFFFF < (24000000 + 8 * 22) / (16 * 22) ∧
    divisor 24000000 3000001 = .ok 0 ∧ 24000000 < 8 * 3000001 :=
  ⟨rfl, by decide, rfl, by decide, rfl, by decide⟩
theorem hyp_StatusRelations : on.par.valid = true ∧ on.busy = false ∧
    ({ on with rxq := sixteen } : State).rff = true := by decide
theorem hyp_MaskedInterruptOutput : ({ on with ier := 0xF0 } : State).ier.extractLsb' 0 4 = 0 ∧
    (0xF0 : Word).extractLsb' 0 4 = 0 ∧ ∃ t, exec (.wrIer 0xF0) on = .next t :=
  ⟨by decide, by decide, _, rfl⟩
theorem hyp_AdmissionTable : opOf (.writeByte 0x41) = some .writeByte ∧ off.self.phase = .idle ∧
    admitted off.cur off.hs .writeByte = false := by decide
theorem hyp_FetchChecks : opOf .flush = some .flush ∧ serial.self.phase = .idle ∧
    admitted serial.cur serial.hs .flush = true := by decide
/-- The phases of CONFIGURE, with DLAB and the FIFO as each clause asks. -/
theorem hyp_ConfigurePhases :
    (cf .cfGate 0).self.phase = .cfGate ∧ (cf .cfDiv 0).self.phase = .cfDiv ∧
    divisor (cf .cfDiv 0).par.clkHz (115200 : Word).toNat = .ok 13 ∧
    (cf .cfIerRd 0).gate = .on ∧ (cf .cfIerRd 0).self.phase = .cfIerRd ∧
    (cf .cfIerWr 0).dlab = false ∧ (cf .cfIerWr 0x80).dlab = true ∧
    (cf .cfDll 0x80).dlab = true ∧ (cf .cfDll 0).dlab = false ∧
    (cf .cfDll 0).txq.length ≠ (cf .cfDll 0).par.txDepth ∧
    ({ cf .cfDll 0 with txq := sixteen } : State).txq.length = (cf .cfDll 0).par.txDepth ∧
    (cf .cfDlh 0x80).dlab = true ∧ (cf .cfDlh 0).dlab = false ∧ (cf .cfLcrWr 0).self.phase = .cfLcrWr :=
  ⟨rfl, rfl, rfl, rfl, rfl, by decide, by decide, by decide, by decide, by decide, by decide, by decide,
    by decide, rfl⟩
theorem hyp_ConfigureEndState : off.cur = .eng ∧ off.hs = .unbound ∧ off.eng.phase = .idle ∧
    divisor off.par.clkHz (115200 : Word).toNat = .ok 13 := ⟨rfl, rfl, rfl, rfl⟩
theorem hyp_ConfigureWhileReceiving :
    (inPhase guardBusy .cfIerRd).cur = .eng ∧ (inPhase guardBusy .cfIerRd).gate = .on ∧
    (inPhase guardBusy .cfIerRd).eng.phase = .cfIerRd ∧ (inPhase guardBusy .cfIerRd).ier = 0x00 ∧
    (inPhase guardBusy .cfIerRd).lcr = 0x00 ∧ (inPhase guardBusy .cfIerRd).txq = [] ∧
    (inPhase guardBusy .cfIerRd).rxActive = true ∧ (inPhase guardBusy .cfIerRd).par.lcrBusyGuard = true ∧
    (inPhase guardBusy .cfIerRd).par.valid = true ∧
    divisor (inPhase guardBusy .cfIerRd).par.clkHz (115200 : Word).toNat = .ok 13 :=
  ⟨rfl, rfl, rfl, rfl, rfl, rfl, rfl, rfl, by decide, rfl⟩
theorem hyp_WriteByteRule : admitted serial.cur serial.hs .writeByte = true ∧
    (inPhase serial .wbPoll).gate = .on ∧ (inPhase serial .wbPush).dlab = false ∧
    ({ inPhase serial .wbPush with txq := sixteen.tail } : State).txq.length ≠ serial.par.txDepth ∧
    ({ inPhase serial .wbPush with txq := sixteen } : State).txq.length = serial.par.txDepth ∧
    ({ inPhase serial .wbPush with lcr := 0x83 } : State).dlab = true := by decide
theorem hyp_FlushRule : admitted serial.cur serial.hs .flush = true ∧
    (inPhase serial .flPoll).self.phase = .flPoll ∧ serial.txq = [] ∧
    ({ serial with txq := [0x41] } : State).txq ≠ [] := by decide
theorem hyp_ReadByteRule : admitted serial.cur serial.hs .readByte = true ∧
    (inPhase serial .rbPoll).self.phase = .rbPoll ∧ ({ serial with rxq := [0x41] } : State).rxq ≠ [] ∧
    (inPhase serial .rbPop).dlab = false ∧ serial.rxq = [] ∧
    ({ inPhase serial .rbPop with lcr := 0x83 } : State).dlab = true := by decide
theorem hyp_ReleaseRule : admitted serial.cur serial.hs .release = true ∧
    (inPhase serial .rlGate).self.phase = .rlGate := by decide
theorem hyp_SplitRule : admitted serial.cur serial.hs .split = true ∧
    (withProg serial [0x60000000]).self.prog.length ≤ (withProg serial [0x60000000]).self.cp + 1 ∧
    (withProg serial [0x60000000, 0x30000000]).self.cp + 1 <
      (withProg serial [0x60000000, 0x30000000]).self.prog.length ∧
    (inPhase serial .spDo).cur = .eng ∧ (inPhase serial .spDo).self.phase = .spDo := by decide
theorem hyp_GatedAccessFaults_commands : (inPhase off .wbPoll).gate = .off ∧
    (inPhase off .wbPoll).self.phase = .wbPoll ∧ (inPhase off .rbPop).self.phase = .rbPop := by decide
theorem hyp_CommandFrame :
    (∃ t, exec (.writeByte 0x41) (inPhase serial .wbPush) = .next t) ∧
    (∃ t, exec .flush serial = .next t) ∧ ∃ t, exec .readByte serial = .next t :=
  ⟨⟨_, rfl⟩, ⟨_, rfl⟩, _, rfl⟩
theorem hyp_LineAgentSteps_transmitter : on.gate = .on ∧ on.txsh = none ∧
    ({ on with txq := [0x48] } : State).txq = 0x48 :: [] ∧
    ({ on with txsh := some ⟨0x48, 3, 13⟩ } : State).txsh = some ⟨0x48, 3, 13⟩ := by decide
theorem hyp_LineAgentSteps_receiver : on.rxActive = false ∧ ({ on with rxActive := true } : State).rxActive = true ∧
    ({ on with rxq := sixteen.tail } : State).rxq.length ≠ on.par.rxDepth ∧
    ({ on with rxq := sixteen } : State).rxq.length = on.par.rxDepth := by decide
theorem hyp_TransmitterDrains : ({ on with txq := [0x48, 0x69] } : State).gate = .on ∧
    ({ on with txq := [0x48, 0x69] } : State).txsh = none := by decide
theorem hyp_StepRunsCommand : (withProg serial [0x30000000]).marked = false ∧
    (withProg serial [0x30000000]).port = none ∧
    (withProg serial [0x30000000]).chosen = some (.engine .eng) ∧
    decodeCommand (withProg serial [0x30000000]).eng.words = .ok .flush :=
  ⟨rfl, rfl, by decide, rfl⟩
theorem hyp_ChosenAgentIsEnabled : (withProg off [0x30000000]).enabled (withProg off [0x30000000]).turn = true ∧
    ({ on with turn := .receiver } : State).chosen = some .receiver ∧ off.chosen = none ∧
    off.marked = false ∧ off.port = none := by decide
/-- R202: with the engines done the receiver may start, and does so only where it is asked. -/
theorem test_start_not_required : ({ on with turn := .engine .engTx } : State).enabled .receiver = true ∧
    ({ on with turn := .engine .engTx } : State).chosen = none ∧
    (nextOf (step { on with turn := .engine .engTx })).map (·.rxActive) = some false := by decide
/-- R226: after an overrun no step is owed, though a character is still arriving. -/
theorem test_overrun_owes_nothing :
    ¬doneOwed (advance { serial with turn := .receiver, rxActive := true, rxq := sixteen }) :=
  fun h => absurd h.1 (by decide)
theorem hyp_StepRunsAccess :
    ({ on with port := some ⟨.read, 0x7C, .byte, 0⟩ } : State).marked = false ∧
    admittedShape 0x7C .byte = true ∧
    decodeKey (accessKey .read 0x7C .byte (bitSet on.lcr 7)) 0 = .ok (.rdUsr .byte) := ⟨rfl, rfl, rfl⟩
theorem hyp_MarkedIsQuiescent : (off.markFault (.txOverflow 0)).marked = true ∧
    (∃ f, step { on with turn := .receiver, rxActive := true, rxq := sixteen } = .fault f) ∧
    ∃ r, step (withProg off [0x70000000]) = .refused r := ⟨by decide, ⟨_, rfl⟩, _, rfl⟩
/-- A finished program. -/
theorem hyp_FinalStates : final serial = true := by decide
theorem hyp_NothingClearsMarks : ∃ t, step (inPhase (withProg serial [0x20000048]) .wbPush) = .next t := ⟨_, rfl⟩
/-- The gate opens at CF_GATE and closes at RL_GATE. -/
theorem hyp_GateChanges :
    (∃ t, step (inPhase (withProg off [0x1C000000, 0x0001C200]) .cfGate) = .next t ∧
      t.gate ≠ (inPhase (withProg off [0x1C000000, 0x0001C200]) .cfGate).gate) ∧
    ∃ t, step (inPhase (withProg serial [0x50000000]) .rlGate) = .next t ∧
      t.gate ≠ (inPhase (withProg serial [0x50000000]) .rlGate).gate :=
  ⟨⟨_, rfl, by decide⟩, _, rfl, by decide⟩
theorem hyp_OnlyConfigureWritesRegisters :
    ∃ t, step (inPhase (withProg { on with ier := 0xFF } [0x1C000000, 0x0001C200]) .cfIerWr) = .next t ∧
      t.ier ≠ 0xFF := ⟨_, rfl, by decide⟩
/-- A push from a poll that showed room, and a pop from one that showed data. -/
theorem hyp_PollPrecedesData :
    (∃ t, step (inPhase (withProg serial [0x20000048]) .wbPush |> fun s => { s with turn := .receiver }) =
      .next t ∧ t.eng.phase = .wbPush) ∧
    ∃ t, step (inPhase (withProg { serial with rxq := [0x41] } [0x40000000]) .rbPop |>
        fun s => { s with turn := .receiver }) = .next t ∧ t.eng.phase = .rbPop :=
  ⟨⟨_, rfl, by decide⟩, _, rfl, by decide⟩
theorem hyp_FifoBoundsKept : FifoBounds { on with txq := sixteen, rxq := sixteen } := ⟨by decide, by decide⟩

/-- A run's state inside WRITE_BYTE, the receiver asked with a full receive FIFO. -/
def writing : State :=
  { inPhase (withProg serial [0x20000048]) .wbPush with turn := .receiver, rxActive := true, rxq := sixteen }

theorem writing_invariant : RunInvariant writing where
  params := by decide
  noPort := by decide
  liveEng := by decide
  liveTx := by decide
  liveRx := by decide
  gateHandle := fun _ => by decide
  gateConfigure := fun _ => by decide
  command := fun a hp => by
    cases a with
    | eng => exact ⟨.writeByte 0x48, rfl, by decide, by decide, trivial⟩
    | engTx => exact absurd rfl hp
    | engRx => exact absurd rfl hp
  emptyBeforeDll := fun _ => by decide
  room := fun _ _ => by decide
  data := fun _ _ => by decide

theorem hyp_RunInvariantKept :
    ∃ t, step { writing with turn := .engine .eng } = .next t ∧ t.txq = [0x48] := ⟨_, rfl, by decide⟩
theorem hyp_OnlyOverrunFaults : ∃ f, step writing = .fault f := ⟨_, rfl⟩

theorem hyp_RegisterInvariantKept : RegisterInvariant writing where
  noGuard := by decide
  progress := fun _ =>
    { ier := by decide
      lcr := ⟨.eight, .one, .none, by decide⟩
      div := ⟨115200, by rw [show writing.div = 13 from by decide, show writing.par.clkHz = 24000000 from rfl]; rfl⟩ }

/-- The halves at their first commands, after SPLIT. -/
theorem hyp_HalvesCommute : RunInvariant halves ∧ halves.hs = .split ∧ halves.dlab = false ∧
    ∃ a b, engineStep .engTx halves = .next a ∧ engineStep .engRx a = .next b := by
  refine ⟨⟨by decide, by decide, by decide, by decide, by decide, fun _ => by decide, fun _ => by decide,
    fun a hp => ?_, fun _ => by decide, fun a hp => ?_, fun a hp => ?_⟩, by decide, by decide, _, _, rfl, rfl⟩
  · cases a <;> exact absurd rfl hp
  · cases a <;> cases hp
  · cases a <;> cases hp

/-- A handle with a character in the shift stage. -/
def sending : State := { serial with txsh := some ⟨0x48, 0x03, 13⟩ }

/-- The run from it that asks the transmitter alone: one send, then nothing is left to do. -/
def sendingRun : Nat → State
  | 0 => sending
  | n + 1 => { serial with lineOut := [⟨0x48, 0x03, 13⟩], tick := n + 1, turn := Config.schedule n }

theorem sendingRun_isRun : IsRun (fun _ => .transmitter) sendingRun
  | 0 => rfl
  | _ + 1 => rfl

/-- The transmitter is asked at once, and afterwards nothing is owed. -/
theorem sendingRun_fair : LineFair (fun _ => .transmitter) sendingRun := by
  refine ⟨fun n h => ?_, fun n h => ?_, fun n h => ?_⟩
  · exact absurd (h (n + 1) (by omega)).2.1 (by simp [sendingRun, State.canLoad, serial, on, off, State.reset])
  · obtain ⟨_, _, x, hx, _⟩ := h (n + 1) (by omega)
    cases hx
  · exact absurd (h (n + 1) (by omega)).2.1 (by simp [sendingRun, State.canReceive, serial, on, off, State.reset])

theorem hyp_RunsOfTheLine_invariant : RunInvariant (sendingRun 0) where
  params := by decide
  noPort := by decide
  liveEng := by decide
  liveTx := by decide
  liveRx := by decide
  gateHandle := fun _ => by decide
  gateConfigure := fun _ => by decide
  command := fun a hp => by cases a <;> exact absurd rfl hp
  emptyBeforeDll := fun _ => by decide
  room := fun a hp => by cases a <;> cases hp
  data := fun a hp => by cases a <;> cases hp

theorem hyp_RunsOfTheLine : (on.port = none ∧ on.rxActive = false) ∧
    (∀ m, (sendingRun m).hs ≠ .unbound ∧ (sendingRun m).marked = false) ∧
    (sendingRun 0).txsh = some ⟨0x48, 0x03, 13⟩ ∧ (13 : Divisor) ≠ 0 :=
  ⟨by decide, fun m => by cases m <;> exact ⟨nofun, rfl⟩, rfl, by decide⟩

end Sys2Proof.Tests
end

/-! # Register accesses: what each row's rule can change (40_register_access) -/

namespace Sys2Proof.Machine

section
variable {s t u : State}

/-- The gate check lets an access through exactly with the gate ON (R68). -/
theorem gated_eq_next {dir : Dir} {off : Offset} {n : Width} {r : BusResult} {p : State × Option Word} :
    gated dir off n s r = .next p ↔ s.gate = .on ∧ r = .next p := by
  rcases s.gate_cases with hg | hg <;> simp [hg]

/-- What an access can change: the four registers, the FIFOs (a push where there is room, a pop) and the model's
own bookkeeping (R100 to R120). -/
structure AccessChange (s u : State) : Prop where
  rest : u = { s with
    ier := u.ier, lcr := u.lcr, dll := u.dll, dlh := u.dlh, txq := u.txq, rxq := u.rxq, draws := u.draws
    portData := u.portData }
  txq : u.txq = s.txq ∨ (s.txq.length ≠ s.par.txDepth ∧ ∃ b, u.txq = s.txq ++ [b])
  rxq : u.rxq <:+ s.rxq

/-- A draw changes nothing but the count of draws. -/
theorem AccessChange.drew : AccessChange s s.drew := ⟨rfl, .inl rfl, List.suffix_rfl⟩

/-- A read of a stored byte draws the free bits and changes nothing else (R27). -/
theorem readByteReg_eq_next {b : Byte} {o : Option Word} (h : readByteReg s b = .next (u, o)) : u = s.drew := by
  cases h; rfl

/-- A guarded write is made or lost (R103, R107, R111). -/
theorem busyGuarded_eq_next {v : State} {o : Option Word} (h : busyGuarded s v = .next (u, o)) :
    u = s ∨ u = v := by
  unfold busyGuarded at h
  split at h
  · cases h; exact .inl rfl
  · cases h; exact .inr rfl

/-- A reserved word gives no next state, whatever the gate and the direction (R120). -/
theorem refuseReserved_ne_next {off : Offset} {op : BusOp} {p : State × Option Word} :
    refuseReserved off op s ≠ .next p := by
  cases op <;> simp [refuseReserved, gated_eq_next]

/-- A write that LCR_BUSY_GUARD may lose changes one of the registers at most. -/
theorem AccessChange.of_busyGuarded {v : State} {o : Option Word} (h : busyGuarded s v = .next (u, o))
    (hv : AccessChange s v) : AccessChange s u := by
  rcases busyGuarded_eq_next h with rfl | rfl
  · exact ⟨rfl, .inl rfl, List.suffix_rfl⟩
  · exact hv

/-- RD_RBR pops the head of the receive FIFO (R100). -/
theorem rowRdRbr_change {o : Option Word} (h : rowRdRbr s = .next (u, o)) : AccessChange s u := by
  obtain ⟨-, h⟩ := gated_eq_next.1 h
  split at h
  · cases h
  · rename_i c q hq
    cases readByteReg_eq_next h
    exact ⟨rfl, .inl rfl, hq ▸ List.suffix_cons c q⟩

/-- WR_THR pushes where there is room (R101). -/
theorem rowWrThr_change {v : Word} {o : Option Word} (h : rowWrThr v s = .next (u, o)) : AccessChange s u := by
  obtain ⟨-, h⟩ := gated_eq_next.1 h
  split at h
  · cases h
  · rename_i hq
    cases h
    exact ⟨rfl, .inr ⟨hq, _, rfl⟩, List.suffix_rfl⟩

/-- RD_USR changes nothing, at either width (R118). -/
theorem rowRdUsr_change {n : UsrWidth} {o : Option Word} (h : rowRdUsr n s = .next (u, o)) : AccessChange s u := by
  obtain ⟨-, h⟩ := gated_eq_next.1 h
  cases n <;> cases h <;> exact .drew

/-- The row of an access that answers a next state has made such a change. -/
theorem runRow_change {req : BusRequest} {i : Instr} {o : Option Word} (h : runRow req i s = .next (u, o)) :
    AccessChange s u := by
  cases i
  case rdRbr => exact rowRdRbr_change h
  case wrThr => exact rowWrThr_change h
  case rdUsr => exact rowRdUsr_change h
  case rdDll | rdIer | rdDlh | rdLcr | rdLsr =>
    cases readByteReg_eq_next (gated_eq_next.1 h).2
    exact .drew
  case wrDll | wrDlh | wrLcr =>
    exact .of_busyGuarded (gated_eq_next.1 h).2 ⟨rfl, .inl rfl, List.suffix_rfl⟩
  case wrIer =>
    cases (gated_eq_next.1 h).2
    exact ⟨rfl, .inl rfl, List.suffix_rfl⟩
  case rdIir | wrFcr | rdMcr | wrMcr | wrLsr | rdMsr | wrMsr | wrUsr => cases (gated_eq_next.1 h).2
  case rsvd1C | rsvd20 | rsvd40 | rsvd60 | rsvd70 | rsvd78 => exact absurd h refuseReserved_ne_next
  case configure | writeByte | flush | readByte | release | split => cases h

/-- An access instruction is its row, made at the register port. -/
theorem exec_eq_deliver_runRow (req : BusRequest) {i : Instr} (hi : Safety.opOf i = none) :
    exec i s = deliver (runRow req i s) := by
  cases i <;> simp only [Safety.opOf, reduceCtorEq] at hi <;> rfl

/-- An access instruction that answers a next state has made such a change. -/
theorem access_change {i : Instr} (hi : Safety.opOf i = none) (h : exec i s = .next t) : AccessChange s t := by
  rw [exec_eq_deliver_runRow default hi, deliver_eq_next] at h
  obtain ⟨u, ⟨hu, rfl⟩ | ⟨w, hu, rfl⟩⟩ := h
  · exact runRow_change hu
  · obtain ⟨rest, txq, rxq⟩ := runRow_change hu
    exact ⟨by rw [rest], txq, rxq⟩

/-- An access leaves the gate. -/
theorem AccessChange.gate (h : AccessChange s u) : u.gate = s.gate := by rw [h.rest]

/-- No key selects a command (R82). -/
theorem opOf_of_decodeKey {k : AccessKey} {v : Word} {i : Instr} (h : decodeKey k v = .ok i) :
    Safety.opOf i = none := by
  have rows : ∀ r ∈ keyTable, Safety.opOf (r.build k v) = none := by
    simp [keyTable, keyRowsDlab, keyRowsPlain, keyRowsRsvd, Safety.opOf]
  unfold decodeKey at h
  split at h
  · rename_i r hr
    cases h
    exact rows r (List.mem_of_find?_eq_some hr)
  · cases h

/-- The access at the port runs an access instruction, with the port taken (R68). -/
theorem portStep_eq_next {req : BusRequest} (h : portStep req s = .next u) :
    ∃ i, Safety.opOf i = none ∧ exec i { s with port := none } = .next u := by
  unfold portStep selectRow at h
  split at h
  · rename_i i hi
    refine ⟨i, ?_, h⟩
    split at hi
    · split at hi
      · rename_i j hj
        cases hi
        exact opOf_of_decodeKey hj
      · cases hi
    · cases hi
  · cases h

end

end Sys2Proof.Machine

/-! # What every step keeps (10_state R28 to R38) -/

namespace Sys2Proof.Machine

/-- How an engine agent goes on: its program stays, its deliveries and its command pointer only grow (R37, R38). -/
structure Engine.Follows (e f : Engine) : Prop where
  prog : f.prog = e.prog
  out : e.out <+: f.out
  cp : e.cp ≤ f.cp

/-- What holds between the states before and after every step: marks and parameters stay (R35, R5), the line and the
engines only go on (R34, R37), and a FIFO loses characters from its head or gains one where it has room (R28, R30). -/
structure StepFrame (s t : State) : Prop where
  faults : t.faults = s.faults
  refused : t.refused = s.refused
  par : t.par = s.par
  lineOut : s.lineOut <+: t.lineOut
  engines : ∀ a, (s.engine a).Follows (t.engine a)
  txq : t.txq <:+ s.txq ∨ (s.txq.length ≠ s.par.txDepth ∧ ∃ b, t.txq = s.txq ++ [b])
  rxq : t.rxq <:+ s.rxq ∨ (s.rxq.length ≠ s.par.rxDepth ∧ ∃ c, t.rxq = s.rxq ++ [c])

section
variable {s t u : State}

theorem Engine.Follows.refl (e : Engine) : e.Follows e := ⟨rfl, List.prefix_rfl, le_rfl⟩

theorem Engine.Follows.trans {e f g : Engine} (h : e.Follows f) (k : f.Follows g) : e.Follows g :=
  ⟨k.prog.trans h.prog, h.out.trans k.out, h.cp.trans k.cp⟩

/-! ## The updates a step is made of -/

theorem StepFrame.refl (s : State) : StepFrame s s :=
  ⟨rfl, rfl, rfl, List.prefix_rfl, fun _ => .refl _, .inl List.suffix_rfl, .inl List.suffix_rfl⟩

/-- An update of one engine agent that goes on. -/
theorem StepFrame.setEngine (h : StepFrame s u) (a : EngineId) {f : Engine} (hf : (u.engine a).Follows f) :
    StepFrame s (u.setEngine a f) where
  faults := by simp [h.faults]
  refused := by simp [h.refused]
  par := by simp [h.par]
  lineOut := by simp [h.lineOut]
  engines b := by
    by_cases hb : b = a
    · subst hb
      simpa using (h.engines b).trans hf
    · rw [State.engine_setEngine_ne _ _ _ _ hb]
      exact h.engines b
  txq := by simpa using h.txq
  rxq := by simpa using h.rxq

theorem StepFrame.toPhase (h : StepFrame s u) (p : Phase) : StepFrame s (u.toPhase p) :=
  h.setEngine _ ⟨rfl, List.prefix_rfl, le_rfl⟩

theorem StepFrame.setT (h : StepFrame s u) (v : Word) : StepFrame s (u.setT v) :=
  h.setEngine _ ⟨rfl, List.prefix_rfl, le_rfl⟩

theorem StepFrame.setD (h : StepFrame s u) (d : Divisor) : StepFrame s (u.setD d) :=
  h.setEngine _ ⟨rfl, List.prefix_rfl, le_rfl⟩

theorem StepFrame.deliverByte (h : StepFrame s u) (b : Byte) : StepFrame s (u.deliverByte b) :=
  h.setEngine _ ⟨rfl, List.prefix_append _ _, le_rfl⟩

theorem StepFrame.complete (h : StepFrame s u) (k : Nat) : StepFrame s (u.complete k) :=
  h.setEngine _ ⟨rfl, List.prefix_rfl, Nat.le_add_right _ k⟩

theorem StepFrame.setLive (h : StepFrame s u) (a : EngineId) (l : Bool) : StepFrame s (u.setLive a l) :=
  h.setEngine _ ⟨rfl, List.prefix_rfl, le_rfl⟩

theorem StepFrame.drew (h : StepFrame s u) : StepFrame s u.drew := { h with }

/-- The handle and the gate are no part of the frame. -/
theorem StepFrame.withHandle (h : StepFrame s u) (g : Gate) (hs : HandleState) :
    StepFrame s { u with gate := g, hs := hs } := { h with }

/-- A gate reset empties the FIFOs and leaves marks, line and engines (R250). -/
theorem StepFrame.blockReset (s : State) : StepFrame s s.blockReset :=
  { StepFrame.refl s with txq := .inl List.nil_suffix, rxq := .inl List.nil_suffix }

/-- A register write of CONFIGURE. -/
theorem StepFrame.of_registerWrite (h : RegisterWrite s u) : StepFrame s u := by
  obtain ⟨rest, txq⟩ := h
  rw [rest]
  exact { StepFrame.refl s with
    txq := txq.imp_left fun e : u.txq = s.txq => e ▸ List.suffix_rfl }

/-- A push into the transmit FIFO where it has room. -/
theorem StepFrame.push (hq : s.txq.length ≠ s.par.txDepth) (b : Byte) :
    StepFrame s { s with txq := s.txq ++ [b] } :=
  { StepFrame.refl s with txq := .inr ⟨hq, b, rfl⟩ }

/-- A pop of the receive FIFO. -/
theorem StepFrame.pop {c : Byte} {q : List Byte} (hq : s.rxq = c :: q) : StepFrame s { s with rxq := q } :=
  { StepFrame.refl s with rxq := .inl (hq ▸ List.suffix_cons c q) }

/-- A guarded write of DLL, lost or not, is a register write. -/
theorem registerWrite_guardedDll (c : Bool) (b : Byte) : RegisterWrite s (if c then s else { s with dll := b }) :=
  .guarded rfl

/-! ## The steps -/

theorem execConfigure_frame {wl : WordLength} {st : StopBits} {par : Parity} {baud : Word}
    (h : execConfigure wl st par baud s = .next t) : StepFrame s t := by
  rcases execConfigure_next h with ⟨_, _, _, rfl⟩ | ⟨_, rfl⟩ | ⟨_, d, _, rfl⟩ | ⟨_, q, _, _, _, w, rfl⟩ |
    ⟨_, q, _, _, _, u, hu, _, rfl⟩ | ⟨_, _, u, hu, _, rfl⟩
  · exact (StepFrame.refl s).toPhase _
  · exact (StepFrame.blockReset s).toPhase _
  · exact ((StepFrame.refl s).setD d).toPhase _
  · exact ((StepFrame.refl s).drew.setT w).toPhase q
  · exact (StepFrame.of_registerWrite hu).toPhase q
  · exact ((StepFrame.of_registerWrite hu).withHandle _ _).complete 2

theorem execWriteByte_frame {b : Byte} (h : execWriteByte b s = .next t) : StepFrame s t := by
  rcases execWriteByte_next h with ⟨_, _, rfl⟩ | ⟨_, _, ⟨_, rfl⟩ | ⟨_, rfl⟩⟩ | ⟨_, _, ⟨_, hq, rfl⟩ | ⟨_, rfl⟩⟩
  · exact (StepFrame.refl s).toPhase _
  · exact (StepFrame.refl s).drew.toPhase _
  · exact (StepFrame.refl s).drew
  · exact (StepFrame.push hq b).complete 1
  · exact (StepFrame.of_registerWrite (registerWrite_guardedDll _ b)).complete 1

theorem execFlush_frame (h : execFlush s = .next t) : StepFrame s t := by
  rcases execFlush_next h with ⟨_, _, rfl⟩ | ⟨_, _, ⟨_, rfl⟩ | ⟨_, rfl⟩⟩
  · exact (StepFrame.refl s).toPhase _
  · exact (StepFrame.refl s).drew.complete 1
  · exact (StepFrame.refl s).drew

theorem execReadByte_frame (h : execReadByte s = .next t) : StepFrame s t := by
  rcases execReadByte_next h with ⟨_, _, rfl⟩ | ⟨_, _, ⟨_, rfl⟩ | ⟨_, rfl⟩⟩ |
    ⟨_, _, ⟨_, c, q, hq, rfl⟩ | ⟨_, rfl⟩⟩
  · exact (StepFrame.refl s).toPhase _
  · exact (StepFrame.refl s).drew.toPhase _
  · exact (StepFrame.refl s).drew
  · exact ((StepFrame.pop hq).drew.deliverByte c).complete 1
  · exact ((StepFrame.refl s).drew.deliverByte _).complete 1

theorem execRelease_frame (h : execRelease s = .next t) : StepFrame s t := by
  rcases execRelease_next h with ⟨_, _, rfl⟩ | ⟨_, rfl⟩
  · exact (StepFrame.refl s).toPhase _
  · exact ((StepFrame.refl s).withHandle _ _).complete 1

theorem execSplit_frame (h : execSplit s = .next t) : StepFrame s t := by
  rcases execSplit_next h with ⟨_, _, _, rfl⟩ | ⟨_, rfl⟩
  · exact (StepFrame.refl s).toPhase _
  · exact (((((StepFrame.refl s).withHandle _ _).complete 1).setLive _ _).setLive _ _).setLive _ _

theorem command_frame {i : Instr} (hi : isCommand i = true) (h : exec i s = .next t) : StepFrame s t := by
  cases i <;> simp only [isCommand, Bool.false_eq_true] at hi
  case configure => exact execConfigure_frame h
  case writeByte => exact execWriteByte_frame h
  case flush => exact execFlush_frame h
  case readByte => exact execReadByte_frame h
  case release => exact execRelease_frame h
  case split => exact execSplit_frame h

theorem AccessChange.frame (h : AccessChange s u) : StepFrame s u := by
  obtain ⟨rest, txq, rxq⟩ := h
  rw [rest]
  exact { StepFrame.refl s with
    txq := txq.imp_left fun e : u.txq = s.txq => e ▸ List.suffix_rfl, rxq := .inl rxq }

theorem transmitterStep_frame (he : s.enabled .transmitter = true) (h : transmitterStep s = .next t) :
    StepFrame s t := by
  obtain ⟨_, ⟨x, _, rfl⟩ | ⟨c, q, _, hq, rfl⟩⟩ := transmitterStep_cases he h
  · exact { StepFrame.refl s with lineOut := List.prefix_append _ _ }
  · exact { StepFrame.refl s with txq := .inl (hq ▸ List.suffix_cons c q) }

theorem receiverStep_frame (he : s.enabled .receiver = true) (h : receiverStep s = .next t) : StepFrame s t := by
  obtain ⟨_, ⟨_, hq, c, rfl⟩ | ⟨_, rfl⟩⟩ := receiverStep_cases he h
  · exact { StepFrame.refl s with rxq := .inr ⟨hq, c, rfl⟩ }
  · exact { StepFrame.refl s with }

/-- Every step, of an access, a command or a line agent, keeps the frame. -/
theorem step_frame (h : step s = .next t) : StepFrame s t :=
  step_relates (P := StepFrame) (stays := .refl) (advances := fun _ _ h => { h with })
    (access := fun _ _ _ hi hx => (access_change hi hx).frame)
    (takesPort := fun _ _ h => { h with })
    (command := fun _ _ _ hi hx => command_frame hi hx)
    (takesCur := fun _ _ _ h => { h with })
    (transmitter := fun _ _ _ he hx => transmitterStep_frame he hx)
    (receiver := fun _ _ _ he hx => receiverStep_frame he hx) h

end

/-- Settles O54: a FIFO grows by one character only where it is not at its depth, by the frame of a step. -/
theorem fifoBoundsKept : Obligations.FifoBoundsKept := by
  rintro s t ⟨tx, rx⟩ h
  have hf := step_frame h
  constructor
  · rw [hf.par]
    rcases hf.txq with hq | ⟨hne, b, hq⟩
    · exact hq.length_le.trans tx
    · rw [hq, List.length_append, List.length_singleton]
      omega
  · rw [hf.par]
    rcases hf.rxq with hq | ⟨hne, c, hq⟩
    · exact hq.length_le.trans rx
    · rw [hq, List.length_append, List.length_singleton]
      omega

/-- Settles O48, by the frame of a step. -/
theorem nothingClearsMarks : Obligations.NothingClearsMarks := by
  intro s t h
  have hf := step_frame h
  exact ⟨hf.faults, hf.refused, hf.par, (hf.engines .eng).prog, (hf.engines .engTx).prog, (hf.engines .engRx).prog⟩

/-- Settles O49, by the frame of a step. -/
theorem lineOutGrows : Obligations.LineOutGrows := by
  intro s t h
  have hf := step_frame h
  refine ⟨?_, fun e => ?_, fun e => (hf.engines e).cp⟩
  · obtain ⟨xs, hx⟩ := hf.lineOut
    exact ⟨xs, hx.symm⟩
  · obtain ⟨bs, hb⟩ := (hf.engines e).out
    exact ⟨bs, hb.symm⟩

/-- Settles O26: the parameters' ranges give both FIFOs room for a character (R5, R33). -/
theorem statusRelations : Obligations.StatusRelations := by
  refine ⟨fun s hv => ⟨rfl, fun hb => ?_, fun hf => ?_⟩, by decide, by decide⟩
  all_goals simp only [Params.valid, Bool.and_eq_true, decide_eq_true_eq] at hv
  · have hq := s.txq_of_not_busy hb
    simp only [State.tfe, State.tfnf, hq, List.isEmpty_nil, List.length_nil, decide_eq_true_eq, true_and]
    omega
  · have hl : s.rxq.length = s.par.rxDepth := by simpa [State.rff] using hf
    have hne : s.rxq ≠ [] := List.ne_nil_of_length_pos (by omega)
    simpa [State.rfne] using hne

end Sys2Proof.Machine

/-! # The gate and the handle: which command moves them (10_state R21, R36) -/

namespace Sys2Proof.Machine

section
variable {s t u : State}

/-- A register write of CONFIGURE leaves the gate. -/
theorem RegisterWrite.gate (h : RegisterWrite s u) : u.gate = s.gate := by rw [h.1]

/-- A register write of CONFIGURE leaves the handle. -/
theorem RegisterWrite.hs (h : RegisterWrite s u) : u.hs = s.hs := by rw [h.1]

/-- What a command's step does to the gate and the handle: nothing, but for CF_GATE, which opens the gate (R250), and
the last steps of CONFIGURE, RELEASE and SPLIT (R161, R165, R166). -/
inductive GateHandleMove (i : Instr) (p : Phase) (s t : State) : Prop
  | stays (gate : t.gate = s.gate) (hs : t.hs = s.hs)
  | opens (command : ∃ wl st par baud, i = .configure wl st par baud) (phase : p = .cfGate) (gate : t.gate = .on)
      (hs : t.hs = s.hs)
  | binds (command : ∃ wl st par baud, i = .configure wl st par baud) (phase : p = .cfLcrWr)
      (gate : t.gate = s.gate) (hs : t.hs = .serial)
  | releases (command : i = .release) (phase : p = .rlGate) (gate : t.gate = .off) (hs : t.hs = .unbound)
  | splits (command : i = .split) (phase : p = .spDo) (gate : t.gate = s.gate) (hs : t.hs = .split)

theorem command_gateHandleMove {i : Instr} (hi : isCommand i = true) (h : exec i s = .next t) :
    GateHandleMove i s.self.phase s t := by
  cases i <;> simp only [isCommand, Bool.false_eq_true] at hi
  case configure =>
    rcases execConfigure_next h with ⟨_, _, _, rfl⟩ | ⟨hp, rfl⟩ | ⟨_, d, _, rfl⟩ | ⟨_, q, _, _, _, w, rfl⟩ |
      ⟨_, q, _, _, _, u, hu, _, rfl⟩ | ⟨hp, _, u, hu, _, rfl⟩
    · exact .stays (by simp) (by simp)
    · exact .opens ⟨_, _, _, _, rfl⟩ hp (by simp) (by simp)
    · exact .stays (by simp) (by simp)
    · exact .stays (by simp) (by simp)
    · exact .stays (by simp [hu.gate]) (by simp [hu.hs])
    · exact .binds ⟨_, _, _, _, rfl⟩ hp (by simp [hu.gate]) (by simp)
  case writeByte b =>
    rcases execWriteByte_next h with ⟨_, _, rfl⟩ | ⟨_, _, ⟨_, rfl⟩ | ⟨_, rfl⟩⟩ | ⟨_, _, ⟨_, _, rfl⟩ | ⟨_, rfl⟩⟩
    case inr.inr.inr =>
      have hu := registerWrite_guardedDll (s := s) (s.par.lcrBusyGuard && s.busy) b
      exact .stays ((State.setEngine_gate ..).trans hu.gate) ((State.setEngine_hs ..).trans hu.hs)
    all_goals exact .stays (by simp) (by simp)
  case flush =>
    rcases execFlush_next h with ⟨_, _, rfl⟩ | ⟨_, _, ⟨_, rfl⟩ | ⟨_, rfl⟩⟩ <;> exact .stays (by simp) (by simp)
  case readByte =>
    rcases execReadByte_next h with ⟨_, _, rfl⟩ | ⟨_, _, ⟨_, rfl⟩ | ⟨_, rfl⟩⟩ |
      ⟨_, _, ⟨_, _, _, _, rfl⟩ | ⟨_, rfl⟩⟩ <;> exact .stays (by simp) (by simp)
  case release =>
    rcases execRelease_next h with ⟨_, _, rfl⟩ | ⟨hp, rfl⟩
    · exact .stays (by simp) (by simp)
    · exact .releases rfl hp (by simp) (by simp)
  case split =>
    rcases execSplit_next h with ⟨_, _, _, rfl⟩ | ⟨hp, rfl⟩
    · exact .stays (by simp) (by simp)
    · exact .splits rfl hp (by simp) (by simp)

/-- A line agent leaves the gate and the handle. -/
theorem lineStep_gate_hs {a : Agent} (ha : ∀ e, a ≠ .engine e) (he : s.enabled a = true)
    (h : agentStep a s = .next u) : u.gate = s.gate ∧ u.hs = s.hs := by
  cases a with
  | engine e => exact absurd rfl (ha e)
  | transmitter =>
    obtain ⟨_, ⟨_, _, rfl⟩ | ⟨_, _, _, _, rfl⟩⟩ := transmitterStep_cases he h <;> exact ⟨rfl, rfl⟩
  | receiver =>
    obtain ⟨_, ⟨_, _, _, rfl⟩ | ⟨_, rfl⟩⟩ := receiverStep_cases he h <;> exact ⟨rfl, rfl⟩

end

/-- Settles O50: an access and a line agent leave the gate, and of the commands only RL_GATE and CF_GATE move it. -/
theorem gateChanges : Obligations.GateChanges := by
  intro s t h hne
  rcases step_next_cases h with ⟨rfl, _⟩ | ⟨_, _, _, rfl⟩ | ⟨req, u, _, _, hu, rfl⟩ | ⟨a, u, _, hport, hc, hu, rfl⟩
  · exact absurd rfl hne
  · exact absurd rfl hne
  · obtain ⟨i, hi, hx⟩ := portStep_eq_next hu
    exact absurd (access_change hi hx).gate hne
  · cases a with
    | engine e =>
      obtain ⟨i, hd, hx⟩ := engineStep_eq_next.1 hu
      refine ⟨hport, e, hc, ?_⟩
      cases command_gateHandleMove (isCommand_of_decodeCommand hd) hx with
      | stays hg | binds _ _ hg | splits _ _ hg => exact absurd hg hne
      | releases hi hp hg => exact .inl ⟨hg, hp, hi ▸ hd⟩
      | opens hi hp hg =>
        obtain ⟨wl, st, par, baud, rfl⟩ := hi
        exact .inr ⟨hg, hp, wl, st, par, baud, hd⟩
    | transmitter => exact absurd (lineStep_gate_hs (by simp) (enabled_of_chosen hc) hu).1 hne
    | receiver => exact absurd (lineStep_gate_hs (by simp) (enabled_of_chosen hc) hu).1 hne

end Sys2Proof.Machine

/-! # Who may be inside which command (42_poll_engine R167) -/

namespace Sys2Proof.Safety

open Sys2Proof.Machine

section
variable {s t u : State} {a b : EngineId} {hs : HandleState} {i j : Instr}

/-- ENG runs commands outside SPLIT, ENG_TX the sending ones and ENG_RX the receiving one inside it. -/
theorem mayRun_cases (h : mayRun a hs i = true) :
    (a = .eng ∧ hs ≠ .split) ∨ (a = .engTx ∧ hs = .split ∧ (i = .flush ∨ ∃ b, i = .writeByte b)) ∨
      (a = .engRx ∧ hs = .split ∧ i = .readByte) := by
  cases i <;> simp only [mayRun, Bool.false_eq_true] at h <;> cases a <;> cases hs <;>
    simp [admitted] at h <;> simp

theorem mayRun_configure {wl : WordLength} {st : StopBits} {par : Parity} {baud : Word}
    (h : mayRun a hs (.configure wl st par baud) = true) : a = .eng ∧ hs = .unbound := by
  cases a <;> cases hs <;> simp [mayRun, admitted] at h ⊢

theorem mayRun_release (h : mayRun a hs .release = true) : a = .eng ∧ hs = .serial := by
  cases a <;> cases hs <;> simp [mayRun, admitted] at h ⊢

theorem mayRun_split (h : mayRun a hs .split = true) : a = .eng ∧ hs = .serial := by
  cases a <;> cases hs <;> simp [mayRun, admitted] at h ⊢

/-- Two agents are inside commands at once only as the halves: one sends, the other receives (R166, R167). -/
theorem mayRun_ne (ha : mayRun a hs i = true) (hb : mayRun b hs j = true) (hne : a ≠ b) :
    ((i = .flush ∨ ∃ c, i = .writeByte c) ∧ j = .readByte) ∨
      (i = .readByte ∧ (j = .flush ∨ ∃ c, j = .writeByte c)) := by
  rcases mayRun_cases ha with ⟨rfl, hsa⟩ | ⟨rfl, hsa, hi⟩ | ⟨rfl, hsa, hi⟩ <;>
    rcases mayRun_cases hb with ⟨rfl, hsb⟩ | ⟨rfl, hsb, hj⟩ | ⟨rfl, hsb, hj⟩
  case inl.inl | inr.inl.inr.inl | inr.inr.inr.inr => exact absurd rfl hne
  case inl.inr.inl | inl.inr.inr => exact absurd hsb hsa
  case inr.inl.inl | inr.inr.inl => exact absurd hsa hsb
  case inr.inl.inr.inr => exact .inl ⟨hi, hj⟩
  case inr.inr.inr.inl => exact .inr ⟨hi, hj⟩

/-- The commands an agent may be inside of are those its fetch admits. -/
theorem mayRun_eq_admitted {op : CommandOp} (h : opOf i = some op) : mayRun a hs i = admitted a hs op := by
  cases i <;> cases h <;> rfl

/-- The fetch enters a phase of its command (R160). -/
theorem phaseOf_firstPhase {op : CommandOp} (h : opOf i = some op) : phaseOf i (firstPhase op) = true := by
  cases i <;> cases h <;> rfl

/-- The phases a fetch enters ask nothing of the gate and the FIFOs. -/
theorem firstPhase_free (op : CommandOp) :
    afterGate (firstPhase op) = false ∧ firstPhase op ≠ .wbPush ∧ firstPhase op ≠ .rbPop := by
  cases op <;> decide

/-- A sending command has no phase in which data must be waiting. -/
theorem phase_of_sending (hi : i = .flush ∨ ∃ c, i = .writeByte c) {p : Phase} (hp : phaseOf i p = true) :
    p ≠ .rbPop := by
  rintro rfl
  rcases hi with rfl | ⟨c, rfl⟩ <;> cases hp

/-- READ_BYTE has no phase in which room must be left or the transmit FIFO be empty. -/
theorem phase_of_readByte {p : Phase} (hp : phaseOf .readByte p = true) : p ≠ .wbPush ∧ beforeDll p = false := by
  simp only [phaseOf, Bool.or_eq_true, beq_iff_eq] at hp
  rcases hp with rfl | rfl <;> decide

/-- The phases after the gate reset are CONFIGURE's (R161). -/
theorem configure_of_afterGate {p : Phase} (hp : phaseOf i p = true) (h : afterGate p = true) :
    ∃ wl st par baud, i = .configure wl st par baud := by
  cases i
  case configure => exact ⟨_, _, _, _, rfl⟩
  all_goals cases p <;> cases h <;> cases hp

/-! ## The invariant of a run, agent by agent -/

/-- Whether an engine agent lives in a handle state (R36, R166). -/
def livesIn (hs : HandleState) : EngineId → Bool
  | .eng => hs != .split
  | .engTx | .engRx => hs == .split

/-- Outside SPLIT it is ENG that lives. -/
theorem livesIn_of_ne_split (h : hs ≠ .split) (a : EngineId) : livesIn hs a = decide (a = .eng) := by
  cases hs
  · cases a <;> rfl
  · cases a <;> rfl
  · exact absurd rfl h

/-- What the invariant of a run says of one engine agent. -/
structure AgentInvariant (s : State) (a : EngineId) : Prop where
  live : (s.engine a).live = livesIn s.hs a
  command : CommandAtPointer s a
  gate : afterGate (s.engine a).phase = true → s.gate = .on
  empty : beforeDll (s.engine a).phase = true → s.txq = []
  room : (s.engine a).phase = .wbPush → s.txq.length < s.par.txDepth
  data : (s.engine a).phase = .rbPop → s.rxq ≠ []

theorem ne_idle_of_afterGate {p : Phase} (h : afterGate p = true) : p ≠ .idle := by rintro rfl; cases h

theorem afterGate_of_beforeDll {p : Phase} (h : beforeDll p = true) : afterGate p = true := by
  simp [afterGate, h]

/-- Only ENG is inside CONFIGURE after the gate reset. -/
theorem RunInvariant.eng_of_afterGate (hI : RunInvariant s) (h : afterGate (s.engine a).phase = true) : a = .eng := by
  obtain ⟨i, _, hp, hr, _⟩ := hI.command a (ne_idle_of_afterGate h)
  obtain ⟨wl, st, par, baud, rfl⟩ := configure_of_afterGate hp h
  exact (mayRun_configure hr).1

/-- The invariant of a run holds for each agent. -/
theorem RunInvariant.agent (hI : RunInvariant s) (a : EngineId) : AgentInvariant s a where
  live := by
    cases a
    · exact hI.liveEng
    · exact hI.liveTx
    · exact hI.liveRx
  command := hI.command a
  gate h := by
    cases hI.eng_of_afterGate h
    exact hI.gateConfigure h
  empty h := by
    cases hI.eng_of_afterGate (afterGate_of_beforeDll h)
    exact hI.emptyBeforeDll h
  room := hI.room a
  data := hI.data a

/-- The invariant of a run is that of each agent, with what it says of the handle, the port and the parameters. -/
theorem RunInvariant.of_agents (params : s.par.valid = true) (noPort : s.port = none)
    (gateHandle : s.hs ≠ .unbound → s.gate = .on) (agents : ∀ a, AgentInvariant s a) : RunInvariant s where
  params := params
  noPort := noPort
  liveEng := (agents .eng).live
  liveTx := (agents .engTx).live
  liveRx := (agents .engRx).live
  gateHandle := gateHandle
  gateConfigure := (agents .eng).gate
  command a := (agents a).command
  emptyBeforeDll := (agents .eng).empty
  room a := (agents a).room
  data a := (agents a).data

/-- Between commands an agent has only to be live as the handle says. -/
theorem AgentInvariant.of_idle (hp : (s.engine a).phase = .idle) (hl : (s.engine a).live = livesIn s.hs a) :
    AgentInvariant s a where
  live := hl
  command h := absurd hp h
  gate h := absurd hp (ne_idle_of_afterGate h)
  empty h := absurd hp (ne_idle_of_afterGate (afterGate_of_beforeDll h))
  room h := by rw [hp] at h; cases h
  data h := by rw [hp] at h; cases h

/-- An agent that did not move keeps its invariant, where the FIFOs stay as its phase needs them. -/
theorem AgentInvariant.of_same (h : AgentInvariant s a) (same : t.engine a = s.engine a) (par : t.par = s.par)
    (hs : t.hs = s.hs) (gate : s.gate = .on → t.gate = .on)
    (txq : (s.engine a).phase = .wbPush ∨ beforeDll (s.engine a).phase = true → t.txq.length ≤ s.txq.length)
    (rxq : (s.engine a).phase = .rbPop → s.rxq ≠ [] → t.rxq ≠ []) : AgentInvariant t a where
  live := by rw [same, hs, h.live]
  command := by
    unfold CommandAtPointer
    rw [same, hs, par]
    exact h.command
  gate hp := gate (h.gate (same ▸ hp))
  empty hp := by
    rw [same] at hp
    have := txq (.inr hp)
    rw [h.empty hp] at this
    simpa using this
  room hp := by
    rw [same] at hp
    rw [par]
    exact (txq (.inl hp)).trans_lt (h.room hp)
  data hp := by
    rw [same] at hp
    exact rxq hp (h.data hp)

/-- From one phase of CONFIGURE after the gate reset to another, so that the transmit FIFO is empty in the second
only where it is in the first and is not pushed between. -/
def configureMove (p q : Phase) : Bool :=
  afterGate p && afterGate q && (!beforeDll q || (beforeDll p && p != .cfDll))

theorem configureMove_iff {p q : Phase} : configureMove p q = true ↔
    afterGate p = true ∧ afterGate q = true ∧ (beforeDll q = true → beforeDll p = true ∧ p ≠ .cfDll) := by
  simp only [configureMove, Bool.and_eq_true, Bool.or_eq_true, Bool.not_eq_true', bne_iff_ne, and_assoc,
    ← Bool.not_eq_true, imp_iff_not_or]

/-- The transmit FIFO holds at least one character (R5). -/
theorem RunInvariant.txDepth_pos (hI : RunInvariant s) : 1 ≤ s.par.txDepth := by
  have hv := hI.params
  simp only [Params.valid, Bool.and_eq_true, decide_eq_true_eq] at hv
  omega

/-! ## Steps that move no engine agent -/

/-- A step of a line agent, a poll that sees nothing and the model's own bookkeeping keep the invariant. -/
theorem RunInvariant.of_same (hI : RunInvariant s) (same : ∀ a, t.engine a = s.engine a) (par : t.par = s.par)
    (port : t.port = s.port) (hs : t.hs = s.hs) (gate : t.gate = s.gate) (txq : t.txq.length ≤ s.txq.length)
    (rxq : s.rxq ≠ [] → t.rxq ≠ []) : RunInvariant t := by
  refine .of_agents (par ▸ hI.params) (port ▸ hI.noPort) (fun h => gate ▸ hI.gateHandle (hs ▸ h)) fun a => ?_
  exact (hI.agent a).of_same (same a) par hs (fun h => gate ▸ h) (fun _ => txq) (fun _ => rxq)

theorem RunInvariant.advanced (hI : RunInvariant s) : RunInvariant s.advanced :=
  hI.of_same (fun _ => rfl) rfl rfl rfl rfl le_rfl id

theorem RunInvariant.drew (hI : RunInvariant s) : RunInvariant s.drew :=
  hI.of_same (fun _ => rfl) rfl rfl rfl rfl le_rfl id

theorem RunInvariant.withCur (hI : RunInvariant s) (e : EngineId) : RunInvariant { s with cur := e } :=
  hI.of_same (fun _ => rfl) rfl rfl rfl rfl le_rfl id

theorem RunInvariant.transmitter (hI : RunInvariant s) (he : s.enabled .transmitter = true)
    (h : transmitterStep s = .next t) : RunInvariant t := by
  obtain ⟨_, ⟨x, _, rfl⟩ | ⟨c, q, _, hq, rfl⟩⟩ := transmitterStep_cases he h
  · exact hI.of_same (fun _ => rfl) rfl rfl rfl rfl le_rfl id
  · exact hI.of_same (fun _ => rfl) rfl rfl rfl rfl (by simp [hq]) id

theorem RunInvariant.receiver (hI : RunInvariant s) (he : s.enabled .receiver = true)
    (h : receiverStep s = .next t) : RunInvariant t := by
  obtain ⟨_, ⟨_, _, c, rfl⟩ | ⟨_, rfl⟩⟩ := receiverStep_cases he h
  · exact hI.of_same (fun _ => rfl) rfl rfl rfl rfl le_rfl (fun _ => by simp)
  · exact hI.of_same (fun _ => rfl) rfl rfl rfl rfl le_rfl id

/-! ## Steps of the agent `cur`, the handle staying -/

/-- What a command's step does before `cur` goes on to its next phase: of the engines only `t`, `d` and `out` of `cur`
change, and a receiving command leaves the transmit FIFO, a sending one the receive FIFO. -/
structure CommandEffect (i : Instr) (s u : State) : Prop where
  cur : u.cur = s.cur
  others : ∀ a, a ≠ s.cur → u.engine a = s.engine a
  prog : (u.engine s.cur).prog = (s.engine s.cur).prog
  cp : (u.engine s.cur).cp = (s.engine s.cur).cp
  live : (u.engine s.cur).live = (s.engine s.cur).live
  par : u.par = s.par
  port : u.port = s.port
  hs : u.hs = s.hs
  gate : s.gate = .on → u.gate = .on
  txq : i = .readByte → u.txq = s.txq
  rxq : i = .flush ∨ (∃ b, i = .writeByte b) → u.rxq = s.rxq

theorem CommandEffect.refl (i : Instr) (s : State) : CommandEffect i s s :=
  ⟨rfl, fun _ _ => rfl, rfl, rfl, rfl, rfl, rfl, rfl, id, fun _ => rfl, fun _ => rfl⟩

theorem CommandEffect.drew (h : CommandEffect i s u) : CommandEffect i s u.drew := { h with }

/-- An update of `cur` that leaves its program, its pointer and whether it lives. -/
theorem CommandEffect.setSelf (h : CommandEffect i s u) {f : Engine} (prog : f.prog = u.self.prog)
    (cp : f.cp = u.self.cp) (live : f.live = u.self.live) : CommandEffect i s (u.setSelf f) := by
  unfold State.setSelf
  simp only [State.self_eq, h.cur] at prog cp live ⊢
  exact
    { cur := by simp [h.cur]
      others := fun a ha => by rw [State.engine_setEngine_ne _ _ _ _ ha, h.others a ha]
      prog := by simp [prog, h.prog]
      cp := by simp [cp, h.cp]
      live := by simp [live, h.live]
      par := by simp [h.par]
      port := by simp [h.port]
      hs := by simp [h.hs]
      gate := by simpa using h.gate
      txq := by simpa using h.txq
      rxq := by simpa using h.rxq }

theorem CommandEffect.setT (h : CommandEffect i s u) (v : Word) : CommandEffect i s (u.setT v) :=
  h.setSelf rfl rfl rfl

theorem CommandEffect.setD (h : CommandEffect i s u) (d : Divisor) : CommandEffect i s (u.setD d) :=
  h.setSelf rfl rfl rfl

theorem CommandEffect.deliverByte (h : CommandEffect i s u) (b : Byte) : CommandEffect i s (u.deliverByte b) :=
  h.setSelf rfl rfl rfl

theorem CommandEffect.of_registerWrite {wl : WordLength} {st : StopBits} {par : Parity} {baud : Word}
    (h : RegisterWrite s u) : CommandEffect (.configure wl st par baud) s u := by
  rw [h.1]
  exact { CommandEffect.refl _ s with txq := nofun }

/-- The gate reset is CONFIGURE's alone (R161). -/
theorem CommandEffect.blockReset {wl : WordLength} {st : StopBits} {par : Parity} {baud : Word} (s : State) :
    CommandEffect (.configure wl st par baud) s s.blockReset :=
  { CommandEffect.refl (.configure wl st par baud) s with gate := fun _ => rfl, txq := nofun, rxq := nofun }

/-- A push is WRITE_BYTE's (R162). -/
theorem CommandEffect.push (s : State) (b c : Byte) :
    CommandEffect (.writeByte b) s { s with txq := s.txq ++ [c] } :=
  { CommandEffect.refl _ s with txq := nofun }

/-- A pop is READ_BYTE's (R164). -/
theorem CommandEffect.pop (s : State) (q : List Byte) : CommandEffect .readByte s { s with rxq := q } :=
  { CommandEffect.refl _ s with rxq := nofun }

/-- A push with DLAB = 1 writes DLL or is lost (R258). -/
theorem CommandEffect.guardedDll (i : Instr) (s : State) (c : Bool) (b : Byte) :
    CommandEffect i s (if c then s else { s with dll := b }) := by
  cases c
  · exact { CommandEffect.refl i s with }
  · exact .refl i s

/-- An agent other than `cur` keeps its invariant. -/
theorem CommandEffect.other (hu : CommandEffect i s u) (hr : mayRun s.cur s.hs i = true) (ha : a ≠ s.cur)
    (h : AgentInvariant s a) (f : Engine) : AgentInvariant (u.setEngine s.cur f) a := by
  have same : (u.setEngine s.cur f).engine a = s.engine a := by
    rw [State.engine_setEngine_ne _ _ _ _ ha, hu.others a ha]
  have halves : (s.engine a).phase ≠ .idle →
      ((s.engine a).phase ≠ .rbPop ∧ u.txq = s.txq) ∨
        ((s.engine a).phase ≠ .wbPush ∧ beforeDll (s.engine a).phase = false ∧ u.rxq = s.rxq) := by
    intro hp
    obtain ⟨j, _, hj, hrj, _⟩ := h.command hp
    rcases mayRun_ne hrj hr ha with ⟨sends, rfl⟩ | ⟨rfl, sends⟩
    · exact .inl ⟨phase_of_sending sends hj, hu.txq rfl⟩
    · exact .inr ⟨(phase_of_readByte hj).1, (phase_of_readByte hj).2, hu.rxq sends⟩
  refine h.of_same same (by simp [hu.par]) (by simp [hu.hs]) (by simpa using hu.gate) (fun hp => ?_) (fun hp => ?_)
  · have hne : (s.engine a).phase ≠ .idle := by
      rcases hp with hp | hp
      · simp [hp]
      · exact ne_idle_of_afterGate (afterGate_of_beforeDll hp)
    rcases halves hne with ⟨_, hq⟩ | ⟨hw, hb, _⟩
    · simp [hq]
    · simp [hw, hb] at hp
  · rcases halves (by simp [hp]) with ⟨hw, _⟩ | ⟨_, _, hq⟩
    · exact absurd hp hw
    · simp [hq]

/-- After a command's step with the handle staying, only the invariant of `cur` is left to show. -/
theorem CommandEffect.runInvariant (hu : CommandEffect i s u) (hI : RunInvariant s) (hr : mayRun s.cur s.hs i = true)
    {f : Engine} (own : AgentInvariant (u.setEngine s.cur f) s.cur) : RunInvariant (u.setEngine s.cur f) := by
  refine .of_agents (by simp [hu.par, hI.params]) (by simp [hu.port, hI.noPort]) (fun h => ?_) (fun a => ?_)
  · rw [State.setEngine_gate]
    exact hu.gate (hI.gateHandle (by simpa [hu.hs] using h))
  · by_cases ha : a = s.cur
    · exact ha ▸ own
    · exact hu.other hr ha (hI.agent a) f

/-- A command that completes keeps the invariant. -/
theorem CommandEffect.complete (hu : CommandEffect i s u) (hI : RunInvariant s) (hr : mayRun s.cur s.hs i = true)
    (k : Nat) : RunInvariant (u.complete k) := by
  rw [State.complete_eq, hu.cur]
  refine hu.runInvariant hI hr (.of_idle (by simp) ?_)
  simp [hu.live, hu.hs, (hI.agent s.cur).live]

/-- A command that goes on to a phase of its own keeps the invariant, where that phase's conditions hold. -/
theorem CommandEffect.toPhase (hu : CommandEffect i s u) (hI : RunInvariant s) (hr : mayRun s.cur s.hs i = true)
    (hd : decodeCommand (s.engine s.cur).words = .ok i) (hb : baudAccepted s.par.clkHz i) {q : Phase}
    (hq : phaseOf i q = true) (gate : afterGate q = true → u.gate = .on) (empty : beforeDll q = true → u.txq = [])
    (room : q = .wbPush → u.txq.length < s.par.txDepth) (data : q = .rbPop → u.rxq ≠ []) :
    RunInvariant (u.toPhase q) := by
  rw [State.toPhase_eq, hu.cur]
  refine hu.runInvariant hI hr ⟨?_, fun _ => ⟨i, ?_, ?_, ?_, ?_⟩, ?_, ?_, ?_, ?_⟩
  · simp [hu.live, hu.hs, (hI.agent s.cur).live]
  · simpa [Engine.words, hu.prog, hu.cp] using hd
  · simpa using hq
  · simpa [hu.hs] using hr
  · simpa [hu.par] using hb
  · simpa using gate
  · simpa using empty
  · simpa [hu.par] using room
  · simpa using data

/-- A fetch that admits its command keeps the invariant (R160). -/
theorem RunInvariant.fetch (hI : RunInvariant s) {op : CommandOp} (hop : opOf i = some op)
    (ha : admitted s.cur s.hs op = true) (hd : decodeCommand (s.engine s.cur).words = .ok i)
    (hb : baudAccepted s.par.clkHz i) : RunInvariant (s.toPhase (firstPhase op)) := by
  have hr : mayRun s.cur s.hs i = true := by
    rw [mayRun_eq_admitted hop, ha]
  obtain ⟨hn, hw, hp⟩ := firstPhase_free op
  exact (CommandEffect.refl i s).toPhase hI hr hd hb (phaseOf_firstPhase hop) (by simp [hn])
    (fun h => by simp [afterGate_of_beforeDll h] at hn) (absurd · hw) (absurd · hp)

/-! ## The handle's moves -/

/-- With every agent between commands and live as the handle says, the rest of the invariant is on the handle. -/
theorem RunInvariant.of_idle (params : s.par.valid = true) (noPort : s.port = none)
    (gateHandle : s.hs ≠ .unbound → s.gate = .on)
    (agents : ∀ a, (s.engine a).phase = .idle ∧ (s.engine a).live = livesIn s.hs a) : RunInvariant s :=
  .of_agents params noPort gateHandle fun a => .of_idle (agents a).1 (agents a).2

/-- Outside SPLIT the halves are idle. -/
theorem RunInvariant.halves_idle (hI : RunInvariant s) (h : s.hs ≠ .split) (ha : a ≠ .eng) :
    (s.engine a).phase = .idle := by
  by_contra hp
  obtain ⟨i, _, _, hr, _⟩ := hI.command a hp
  rcases mayRun_cases hr with ⟨rfl, _⟩ | ⟨_, hs, _⟩ | ⟨_, hs, _⟩
  · exact ha rfl
  · exact h hs
  · exact h hs

/-- The command an agent is inside of is the one at its pointer. -/
theorem RunInvariant.inside (hI : RunInvariant s) (hd : decodeCommand (s.engine a).words = .ok i) {p : Phase}
    (hp : (s.engine a).phase = p) (hne : p ≠ .idle) : mayRun a s.hs i = true ∧ baudAccepted s.par.clkHz i := by
  obtain ⟨j, hj, _, hr, hb⟩ := hI.command a (hp ▸ hne)
  cases Except.ok.inj (hj.symm.trans hd)
  exact ⟨hr, hb⟩

/-- The handle moves with the halves idle: what is left to show is on the new handle, its gate and who lives. -/
theorem RunInvariant.of_handle (hI : RunInvariant s) (hs : s.hs ≠ .split) (par : t.par = s.par)
    (port : t.port = s.port) (gate : t.hs ≠ .unbound → t.gate = .on) (eng : t.eng.phase = .idle)
    (halves : ∀ a, a ≠ .eng → (t.engine a).phase = (s.engine a).phase)
    (live : ∀ a, (t.engine a).live = livesIn t.hs a) : RunInvariant t := by
  refine .of_idle (by rw [par, hI.params]) (by rw [port, hI.noPort]) gate fun a => ⟨?_, live a⟩
  by_cases ha : a = .eng
  · rw [ha]
    exact eng
  · rw [halves a ha, hI.halves_idle hs ha]

/-- ENG completes a command that moves the handle, not into SPLIT, and maybe the gate. -/
theorem CommandEffect.complete_handle (hu : CommandEffect i s u) (hI : RunInvariant s) (hcur : s.cur = .eng)
    (hs : s.hs ≠ .split) {g : Gate} {x : HandleState} (gate : x ≠ .unbound → g = .on) (hx : x ≠ .split) (k : Nat) :
    RunInvariant (State.complete { u with gate := g, hs := x } k) := by
  have cur : u.cur = .eng := hu.cur.trans hcur
  have live : u.eng.live = s.eng.live := by simpa [hcur] using hu.live
  have other {f : Engine} {a : EngineId} (ha : a ≠ .eng) :
      (State.setEngine { u with gate := g, hs := x } .eng f).engine a = s.engine a :=
    (State.engine_setEngine_ne _ _ _ _ ha).trans (hu.others a (hcur ▸ ha))
  rw [State.complete_eq, cur]
  refine hI.of_handle hs hu.par hu.port gate rfl (fun a ha => congrArg Engine.phase (other ha)) (fun a => ?_)
  have lives : livesIn s.hs a = livesIn x a := (livesIn_of_ne_split hs a).trans (livesIn_of_ne_split hx a).symm
  refine Eq.trans ?_ ((hI.agent a).live.trans lives)
  by_cases ha : a = .eng
  · rw [ha]
    exact live
  · exact congrArg Engine.live (other ha)

end

/-! ## The commands -/

section
variable {s t u : State} {q : Phase} (hI : RunInvariant s)
include hI

/-- CONFIGURE goes on from a phase after the gate reset to the next one (R161). -/
theorem configure_advances {wl : WordLength} {st : StopBits} {par : Parity} {baud : Word}
    (hd : decodeCommand (s.engine s.cur).words = .ok (.configure wl st par baud))
    (hu : CommandEffect (.configure wl st par baud) s u) (hq : configureMove (s.engine s.cur).phase q = true)
    (empty : (s.engine s.cur).phase ≠ .cfDll → u.txq = s.txq) : RunInvariant (u.toPhase q) := by
  have own := hI.agent s.cur
  obtain ⟨hp, hq, before⟩ := configureMove_iff.1 hq
  obtain ⟨hr, hb⟩ := hI.inside hd rfl (ne_idle_of_afterGate hp)
  refine hu.toPhase hI hr hd hb (by simp [phaseOf, hq]) (fun _ => hu.gate (own.gate hp)) (fun h => ?_) ?_ ?_
  · obtain ⟨hb, hne⟩ := before h
    rw [empty hne, own.empty hb]
  · rintro rfl; cases hq
  · rintro rfl; cases hq

theorem execConfigure_runInvariant {wl : WordLength} {st : StopBits} {par : Parity} {baud : Word}
    (hd : decodeCommand (s.engine s.cur).words = .ok (.configure wl st par baud))
    (h : execConfigure wl st par baud s = .next t) : RunInvariant t := by
  rcases execConfigure_next h with ⟨_, ha, hb, rfl⟩ | ⟨hp, rfl⟩ | ⟨hp, d, _, rfl⟩ | ⟨p, q, hpq, rfl, hg, w, rfl⟩ |
    ⟨p, q, hpq, rfl, hg, u, hu, hq, rfl⟩ | ⟨hp, hg, u, hu, _, rfl⟩
  case inl => exact hI.fetch rfl ha hd hb
  case inr.inl =>
    obtain ⟨hr, hb⟩ := hI.inside hd hp nofun
    exact (CommandEffect.blockReset s).toPhase hI hr hd hb rfl (fun _ => rfl) (fun _ => rfl) nofun nofun
  case inr.inr.inl =>
    exact configure_advances hI hd ((CommandEffect.refl _ s).setD d) (by rw [← State.self_eq, hp]; rfl)
      (fun _ => State.setEngine_txq ..)
  case inr.inr.inr.inl =>
    have moves : ∀ x ∈ [(Phase.cfIerRd, Phase.cfIerWr), (.cfLcrRd1, .cfLcrSet), (.cfLcrRd2, .cfLcrWr)],
        configureMove x.1 x.2 = true := by decide
    have hm := moves _ hpq
    exact configure_advances hI hd ((CommandEffect.refl _ s).drew.setT w) hm (fun _ => State.setEngine_txq ..)
  case inr.inr.inr.inr.inl =>
    have moves : ∀ x ∈ [(Phase.cfIerWr, Phase.cfDiv), (.cfLcrSet, .cfDll), (.cfDll, .cfDlh),
        (.cfDlh, .cfLcrClr), (.cfLcrClr, .cfLcrRd2)], configureMove x.1 x.2 = true := by decide
    have hm := moves _ hpq
    exact configure_advances hI hd (.of_registerWrite hu) hm hq
  case inr.inr.inr.inr.inr =>
    obtain ⟨hr, _⟩ := hI.inside hd hp nofun
    obtain ⟨hcur, hs⟩ := mayRun_configure hr
    have hw : CommandEffect (.configure wl st par baud) s u := .of_registerWrite hu
    exact hw.complete_handle (x := .serial) hI hcur (by simp [hs]) (fun _ => hu.gate.trans hg) nofun 2

theorem execWriteByte_runInvariant {b : Byte} (hd : decodeCommand (s.engine s.cur).words = .ok (.writeByte b))
    (h : execWriteByte b s = .next t) : RunInvariant t := by
  rcases execWriteByte_next h with ⟨_, ha, rfl⟩ | ⟨hp, _, ⟨hr, rfl⟩ | ⟨_, rfl⟩⟩ | ⟨hp, _, ⟨_, _, rfl⟩ | ⟨_, rfl⟩⟩
  · exact hI.fetch rfl ha hd trivial
  · exact (CommandEffect.refl _ s).drew.toPhase hI (hI.inside hd hp nofun).1 hd trivial rfl nofun nofun
      (fun _ => s.room_of_showsRoom hI.txDepth_pos hr) nofun
  · exact hI.drew
  · exact (CommandEffect.push s b b).complete hI (hI.inside hd hp nofun).1 1
  · exact (CommandEffect.guardedDll _ s _ b).complete hI (hI.inside hd hp nofun).1 1

theorem execFlush_runInvariant (hd : decodeCommand (s.engine s.cur).words = .ok .flush) (h : execFlush s = .next t) :
    RunInvariant t := by
  rcases execFlush_next h with ⟨_, ha, rfl⟩ | ⟨hp, _, ⟨_, rfl⟩ | ⟨_, rfl⟩⟩
  · exact hI.fetch rfl ha hd trivial
  · exact (CommandEffect.refl _ s).drew.complete hI (hI.inside hd hp nofun).1 1
  · exact hI.drew

theorem execReadByte_runInvariant (hd : decodeCommand (s.engine s.cur).words = .ok .readByte)
    (h : execReadByte s = .next t) : RunInvariant t := by
  rcases execReadByte_next h with ⟨_, ha, rfl⟩ | ⟨hp, _, ⟨hr, rfl⟩ | ⟨_, rfl⟩⟩ |
    ⟨hp, _, ⟨_, c, q, _, rfl⟩ | ⟨_, rfl⟩⟩
  · exact hI.fetch rfl ha hd trivial
  · exact (CommandEffect.refl _ s).drew.toPhase hI (hI.inside hd hp nofun).1 hd trivial rfl nofun nofun nofun
      (fun _ => s.data_of_dr hr)
  · exact hI.drew
  · exact ((CommandEffect.pop s q).drew.deliverByte c).complete hI (hI.inside hd hp nofun).1 1
  · exact ((CommandEffect.refl _ s).drew.deliverByte _).complete hI (hI.inside hd hp nofun).1 1

theorem execRelease_runInvariant (hd : decodeCommand (s.engine s.cur).words = .ok .release)
    (h : execRelease s = .next t) : RunInvariant t := by
  rcases execRelease_next h with ⟨_, ha, rfl⟩ | ⟨hp, rfl⟩
  · exact hI.fetch rfl ha hd trivial
  · obtain ⟨hcur, hs⟩ := mayRun_release (hI.inside hd hp nofun).1
    exact (CommandEffect.refl .release s).complete_handle hI hcur (by simp [hs]) (absurd rfl) nofun 1

theorem execSplit_runInvariant (hd : decodeCommand (s.engine s.cur).words = .ok .split)
    (h : execSplit s = .next t) : RunInvariant t := by
  rcases execSplit_next h with ⟨_, ha, _, rfl⟩ | ⟨hp, rfl⟩
  · exact hI.fetch rfl ha hd trivial
  · obtain ⟨hcur, hs⟩ := mayRun_split (hI.inside hd hp nofun).1
    have hg := hI.gateHandle (by simp [hs])
    refine hI.of_handle (by simp [hs]) (by simp) (by simp) (fun _ => by simpa using hg) (by simp [hcur])
      (fun a ha => ?_) (fun a => ?_)
    · cases a <;> simp [hcur] at ha ⊢
    · cases a <;> simp [hcur, livesIn]

/-- A command of the agent `cur` keeps the invariant. -/
theorem command_runInvariant {i : Instr} (hd : decodeCommand (s.engine s.cur).words = .ok i) (h : exec i s = .next t) :
    RunInvariant t := by
  have hi := isCommand_of_decodeCommand hd
  cases i <;> simp only [isCommand, Bool.false_eq_true] at hi
  case configure => exact execConfigure_runInvariant hI hd h
  case writeByte => exact execWriteByte_runInvariant hI hd h
  case flush => exact execFlush_runInvariant hI hd h
  case readByte => exact execReadByte_runInvariant hI hd h
  case release => exact execRelease_runInvariant hI hd h
  case split => exact execSplit_runInvariant hI hd h

/-- The step of the agent chosen keeps the invariant. -/
theorem agentStep_runInvariant {a : Agent} (he : s.enabled a = true) (h : agentStep a s = .next t) :
    RunInvariant t := by
  cases a with
  | engine e =>
    obtain ⟨i, hd, hx⟩ := engineStep_eq_next.1 h
    exact command_runInvariant (hI.withCur e) hd hx
  | transmitter => exact hI.transmitter he h
  | receiver => exact hI.receiver he h

end

/-- Settles O55: agent by agent, the one that steps meets the conditions of its next phase, and the others keep
theirs, since two agents are inside commands at once only as the halves. -/
theorem runInvariantKept : Obligations.RunInvariantKept := by
  intro s t hI h
  rcases step_next_cases h with ⟨rfl, _⟩ | ⟨_, _, _, rfl⟩ | ⟨req, _, _, hport, _, _⟩ | ⟨a, u, _, _, hc, hu, rfl⟩
  · exact hI
  · exact hI.advanced
  · rw [hI.noPort] at hport
    cases hport
  · exact RunInvariant.advanced (agentStep_runInvariant hI (enabled_of_chosen hc) hu)

/-- Settles O58: the command whose step moves the handle is one the handle admits, by the invariant of a run. -/
theorem handleMoves : Obligations.HandleMoves := by
  intro s t hI h
  rcases step_next_cases h with ⟨rfl, _⟩ | ⟨_, _, _, rfl⟩ | ⟨req, _, _, hport, _, _⟩ | ⟨a, u, _, _, hc, hu, rfl⟩
  · exact .inl rfl
  · exact .inl rfl
  · rw [hI.noPort] at hport
    cases hport
  · cases a with
    | engine e =>
      obtain ⟨i, hd, hx⟩ := engineStep_eq_next.1 hu
      cases command_gateHandleMove (isCommand_of_decodeCommand hd) hx with
      | stays _ hs | opens _ _ _ hs => exact .inl hs
      | binds hi hp _ hs =>
        obtain ⟨wl, st, par, baud, rfl⟩ := hi
        exact .inr (.inl ⟨(mayRun_configure (hI.inside hd hp nofun).1).2, hs⟩)
      | releases hi hp _ hs =>
        subst hi
        exact .inr (.inr (.inl ⟨(mayRun_release (hI.inside hd hp nofun).1).2, hs⟩))
      | splits hi hp _ hs =>
        subst hi
        exact .inr (.inr (.inr ⟨(mayRun_split (hI.inside hd hp nofun).1).2, hs⟩))
    | transmitter => exact .inl (lineStep_gate_hs (by simp) (enabled_of_chosen hc) hu).2
    | receiver => exact .inl (lineStep_gate_hs (by simp) (enabled_of_chosen hc) hu).2

end Sys2Proof.Safety

/-! # The address window and the access procedure (20_memory R60, R65, R68) -/

namespace Sys2Proof.Machine

section
variable {s : State} {req : BusRequest} {i : Instr} {dir : Dir} {off : Offset} {n : Width}

/-- Every row's rule stands behind the gate check of the access the row is (R68, R222). -/
theorem runRow_eq_gated (h : Safety.busShape i = some (dir, off, n)) :
    ∃ r, runRow req i s = gated dir off n s r := by
  cases i
  case rdUsr n => cases n <;> cases h <;> exact ⟨_, rfl⟩
  case wrUsr v => cases v <;> cases h <;> exact ⟨_, rfl⟩
  case rsvd1C op | rsvd20 op | rsvd40 op | rsvd60 op | rsvd70 op | rsvd78 op =>
    cases op <;> cases h <;> exact ⟨_, rfl⟩
  all_goals cases h <;> exact ⟨_, rfl⟩

/-- With the gate OFF every row faults with the shape of its access (R222). -/
theorem runRow_gate_off (hg : s.gate = .off) (h : Safety.busShape i = some (dir, off, n)) :
    runRow req i s = .fault (.gatedAccess dir off n) := by
  obtain ⟨r, hr⟩ := runRow_eq_gated (req := req) (s := s) h
  rw [hr, gated_off _ _ _ _ _ hg]

/-! ## Every admitted access selects a row of its own shape -/

/-- The shape of the access a row builds does not depend on the value on the bus. -/
theorem busShape_build (k : AccessKey) (v w : Word) :
    ∀ r ∈ keyTable, Safety.busShape (r.build k v) = Safety.busShape (r.build k w) := by
  have rows : keyTable.Forall fun r => Safety.busShape (r.build k v) = Safety.busShape (r.build k w) := by
    dsimp only [keyTable, keyRowsDlab, keyRowsPlain, keyRowsRsvd, List.cons_append, List.nil_append, List.Forall,
      keyOp, keyUsrValue]
    cases bitSet k 7 <;> cases bitSet k 10 <;> and_intros <;> rfl
  exact List.forall_iff_forall_mem.1 rows

/-- The key of an admitted access hits a row, and the first one it hits is of the access's own shape (R82, R83). -/
theorem find?_accessKey (dir : Dir) (dlab : Bool) (h : admittedShape off n = true) :
    (keyTable.find? (·.hits (accessKey dir off n dlab))).map
      (fun r => Safety.busShape (r.build (accessKey dir off n dlab) 0)) = some (some (dir, off, n)) := by
  revert off
  cases n
  case half => exact nofun
  case byte | word => cases dir <;> cases dlab <;> decide

/-- The key of an admitted access selects an access instruction of the same direction, offset and width (R83). -/
theorem decodeKey_accessKey (dir : Dir) (dlab : Bool) (v : Word) (h : admittedShape off n = true) :
    ∃ i, decodeKey (accessKey dir off n dlab) v = .ok i ∧ Safety.busShape i = some (dir, off, n) := by
  obtain ⟨r, hr, hs⟩ := Option.map_eq_some_iff.1 (find?_accessKey dir dlab h)
  have shape := busShape_build (accessKey dir off n dlab) v 0 r (List.mem_of_find?_eq_some hr)
  exact ⟨r.build _ v, by rw [decodeKey, hr], shape.trans hs⟩

/-! ## The access procedure (R68) -/

/-- An access of a shape that is not admitted is refused (R65). -/
theorem selectRow_not_admitted (h : admittedShape req.off req.n = false) :
    selectRow req s = .error (.badAccess req.dir req.off req.n) := by
  simp [selectRow, h]

/-- An admitted access selects what its key with DLAB = LCR[7] decodes to. -/
theorem selectRow_admitted (h : admittedShape req.off req.n = true)
    (hi : decodeKey (accessKey req.dir req.off req.n (bitSet s.lcr 7)) req.v = .ok i) :
    selectRow req s = .ok i := by
  simp [selectRow, h, State.dlab, hi]

/-- An admitted access runs the row its key selects, which is of the access's own shape. -/
theorem busAccess_admitted (h : admittedShape req.off req.n = true) :
    ∃ i, decodeKey (accessKey req.dir req.off req.n (bitSet s.lcr 7)) req.v = .ok i ∧
      Safety.busShape i = some (req.dir, req.off, req.n) ∧ busAccess req s = runRow req i s := by
  obtain ⟨i, hi, shape⟩ := decodeKey_accessKey req.dir (bitSet s.lcr 7) req.v h
  exact ⟨i, hi, shape, by rw [busAccess, selectRow_admitted h hi]⟩

end

/-- Settles O16: an admitted access selects a row of its own shape, and that row begins with the gate check. -/
theorem accessProcedure : Obligations.AccessProcedure := by
  refine ⟨fun req s => ⟨fun h => ?_, fun h => ?_⟩, fun s f => ⟨s.mem_markFault f, rfl⟩,
    fun s r => ⟨s.mem_markRefusal r, rfl⟩⟩
  · rw [busAccess, selectRow_not_admitted h]
  · obtain ⟨i, hi, shape, row⟩ := busAccess_admitted (s := s) h
    exact ⟨fun hg => row.trans (runRow_gate_off hg shape), fun _ => ⟨i, hi, row⟩⟩

/-- Settles O17: seven bits hold no multiple of 4 above 0x7C. -/
theorem admittedShapes : Obligations.AdmittedShapes := by
  intro off n
  have := off.isLt
  cases n
  case byte => simp [admittedShape]
  case half => simp [admittedShape]
  case word =>
    simp only [admittedShape, beq_iff_eq, reduceCtorEq, false_and, or_false, true_and]
    omega

/-- An address in the window reaches the offset that stands between it and BASE (R60). -/
theorem offsetOf_eq_some {p : Params} {a : Nat} (h : p.base ≤ a ∧ a < p.base + 0x80) :
    ∃ off : Offset, off.toNat = a - p.base ∧ offsetOf p a = some off :=
  ⟨BitVec.ofNat 7 (a - p.base), Nat.mod_eq_of_lt (by omega), if_pos h⟩

/-- Settles O18, by the window of the offsets. -/
theorem addressesOfTheBlock : Obligations.AddressesOfTheBlock := by
  intro a dir n v s
  constructor
  · intro h
    obtain ⟨off, hoff, ha⟩ := offsetOf_eq_some h
    exact ⟨off, hoff, by rw [accessAt, ha]⟩
  · intro h
    rw [accessAt, offsetOf, if_neg h]

/-! # What each access changes (20_memory R67) -/

/-- What an access that answers a next state has done: taken one draw (the reads), changed nothing (a write that
LCR_BUSY_GUARD loses), or had the effect that is its instruction's alone, a pop, a push or a register set (R100 to
R120). The first two are left open to every instruction. -/
inductive AccessEffect : Instr → State → State → Prop where
  | read {i : Instr} {s : State} : AccessEffect i s s.drew
  | lost {i : Instr} {s : State} : AccessEffect i s s
  | pop {s : State} {c : Byte} {q : List Byte} (hq : s.rxq = c :: q) :
      AccessEffect .rdRbr s (State.drew { s with rxq := q })
  | push {s : State} {v : Word} (hq : s.txq.length ≠ s.par.txDepth) :
      AccessEffect (.wrThr v) s { s with txq := s.txq ++ [lowByte v] }
  | ier {s : State} {v : Word} : AccessEffect (.wrIer v) s { s with ier := lowByte v }
  | lcr {s : State} {v : Word} : AccessEffect (.wrLcr v) s { s with lcr := lowByte v }
  | dll {s : State} {v : Word} : AccessEffect (.wrDll v) s { s with dll := lowByte v }
  | dlh {s : State} {v : Word} : AccessEffect (.wrDlh v) s { s with dlh := lowByte v }

section
variable {s t u : State} {req : BusRequest} {i : Instr} {o : Option Word}

/-- A write that LCR_BUSY_GUARD may lose has the effect of the write, or none. -/
theorem AccessEffect.of_busyGuarded {v : State} (h : busyGuarded s v = .next (u, o)) (hv : AccessEffect i s v) :
    AccessEffect i s u := by
  rcases busyGuarded_eq_next h with rfl | rfl
  · exact .lost
  · exact hv

/-- A row that answers a next state has had its instruction's effect. -/
theorem runRow_effect (h : runRow req i s = .next (u, o)) : AccessEffect i s u := by
  cases i
  case rdRbr =>
    have h := (gated_eq_next.1 h).2
    split at h
    · cases h
    · cases readByteReg_eq_next h
      exact .pop ‹_›
  case wrThr =>
    have h := (gated_eq_next.1 h).2
    split at h
    · cases h
    · cases h
      exact .push ‹_›
  case rdUsr n =>
    have h := (gated_eq_next.1 h).2
    cases n <;> cases h <;> exact .read
  case rdDll | rdIer | rdDlh | rdLcr | rdLsr =>
    cases readByteReg_eq_next (gated_eq_next.1 h).2
    exact .read
  case wrIer =>
    cases (gated_eq_next.1 h).2
    exact .ier
  case wrLcr => exact .of_busyGuarded (gated_eq_next.1 h).2 .lcr
  case wrDll => exact .of_busyGuarded (gated_eq_next.1 h).2 .dll
  case wrDlh => exact .of_busyGuarded (gated_eq_next.1 h).2 .dlh
  case rdIir | wrFcr | rdMcr | wrMcr | wrLsr | rdMsr | wrMsr | wrUsr => cases (gated_eq_next.1 h).2
  case rsvd1C | rsvd20 | rsvd40 | rsvd60 | rsvd70 | rsvd78 => exact absurd h refuseReserved_ne_next
  case configure | writeByte | flush | readByte | release | split => cases h

/-- An access instruction has its row's effect, and may deliver a value at the register port. -/
theorem access_effect (hi : Safety.opOf i = none) (h : exec i s = .next t) :
    ∃ u w, AccessEffect i s u ∧ t = { u with portData := w } := by
  rw [exec_eq_deliver_runRow default hi, deliver_eq_next] at h
  obtain ⟨u, ⟨hu, rfl⟩ | ⟨w, hu, rfl⟩⟩ := h
  · exact ⟨_, _, runRow_effect hu, rfl⟩
  · exact ⟨u, w, runRow_effect hu, rfl⟩

end

/-- Settles O19: each register and each FIFO is changed by the effect of its own instruction alone. -/
theorem accessFrame : Obligations.AccessFrame := by
  intro i s t hi h
  refine ⟨(access_change hi h).rest, ?_⟩
  obtain ⟨u, w, effect, rfl⟩ := access_effect hi h
  cases effect <;> simp

/-! # Whose step it is (20_memory R69, 60_exceptions R227) -/

section
variable {s : State}

/-- Who may step is the agent asked and the engine agents. -/
theorem mem_agentsFrom {a b : Agent} : a ∈ agentsFrom b ↔ a = b ∨ ∃ e, a = .engine e := by
  rcases b with (_ | _ | _) | _ | _ <;> rcases a with (_ | _ | _) | _ | _ <;> simp [agentsFrom]

/-- No agent is chosen exactly where neither the agent asked nor an engine agent has a step. -/
theorem chosen_eq_none : s.chosen = none ↔ s.enabled s.turn = false ∧ ∀ e, s.enabled (.engine e) = false := by
  simp only [State.chosen, List.find?_eq_none, mem_agentsFrom, Bool.not_eq_true]
  constructor
  · exact fun h => ⟨h _ (.inl rfl), fun e => h _ (.inr ⟨e, rfl⟩)⟩
  · rintro ⟨asked, engines⟩ a (rfl | ⟨e, rfl⟩)
    · exact asked
    · exact engines e

/-- Where no agent is chosen and no access waits, an unmarked state idles. -/
theorem step_idle (hm : s.marked = false) (hp : s.port = none) (hc : s.chosen = none) :
    step s = .next s.advanced := by
  simp [step, sequencerStep, hm, hp, hc]

/-- An admitted access at the port executes what its key decodes to, with the port taken. -/
theorem portStep_admitted {req : BusRequest} {i : Instr} (h : admittedShape req.off req.n = true)
    (hi : decodeKey (accessKey req.dir req.off req.n (bitSet s.lcr 7)) req.v = .ok i) :
    portStep req s = exec i { s with port := none } := by
  rw [portStep, selectRow_admitted h hi]

/-- An access at the port of an unmarked state is the step. -/
theorem step_port {req : BusRequest} (hm : s.marked = false) (hp : s.port = some req) :
    step s = afterStep (portStep req s) := by
  simp [step, sequencerStep, hm, hp]

end

/-- Settles O44: the search asks `turn` first and then the engine agents. -/
theorem chosenAgentIsEnabled : Obligations.ChosenAgentIsEnabled := fun _ =>
  ⟨chosen_asked, fun _ => enabled_of_chosen,
    fun _ hc line => asked_of_chosen hc (by rcases line with rfl | rfl <;> simp), chosen_eq_none, step_idle⟩

/-- Settles O45: the access at the port is the step, and it runs the row its key selects. -/
theorem stepRunsAccess : Obligations.StepRunsAccess := by
  intro req i s hm hp hshape hi
  rw [step_port hm hp, portStep_admitted hshape hi]
  cases exec i { s with port := none } <;> rfl

end Sys2Proof.Machine

/-! # Encoding: the access-key map and the command words (30_encoding) -/

namespace Sys2Proof

open Machine Safety

/-! ## The fields of an access key (R80) -/

section
variable (dir : Dir) (off : Offset) (n : Width) (dlab : Bool)

/-- The bits of a key: OFF, WE, DLAB, SIZE (R80). -/
theorem getLsbD_accessKey (j : Nat) :
    (accessKey dir off n dlab).getLsbD j =
      if j < 7 then off.getLsbD j
      else if j < 8 then dir.code.getLsbD (j - 7)
      else if j < 9 then (BitVec.ofBool dlab).getLsbD (j - 8)
      else n.code.getLsbD (j - 9) := by
  simp only [accessKey, BitVec.getLsbD_append]
  grind

@[simp] theorem keyOff_accessKey : keyOff (accessKey dir off n dlab) = off := by
  refine BitVec.eq_of_getLsbD_eq fun j hj => ?_
  simp [keyOff, getLsbD_accessKey, hj]

@[simp] theorem bitSet_accessKey_we : bitSet (accessKey dir off n dlab) 7 = decide (dir = .write) := by
  rw [bitSet, getLsbD_accessKey]
  cases dir <;> rfl

@[simp] theorem bitSet_accessKey_size : bitSet (accessKey dir off n dlab) 10 = decide (n = .word) := by
  rw [bitSet, getLsbD_accessKey]
  cases n <;> rfl

end

/-! ## A key and a row: `key & mask = pattern` (R80) -/

section
variable {r q : KeyRow} {k k' : AccessKey} {v : Word} {i : Instr}

theorem KeyRow.hits_iff : r.hits k = true ↔ k &&& r.mask = r.pattern := beq_iff_eq

/-- A key in a row has the pattern's bit wherever the row examines one. -/
theorem KeyRow.getLsbD_of_hits {j : Nat} (h : r.hits k = true) (hm : r.mask.getLsbD j = true) :
    k.getLsbD j = r.pattern.getLsbD j := by
  rw [← hits_iff.1 h, BitVec.getLsbD_and, hm, Bool.and_true]

/-- A key in a row has the pattern's offset as far as the row examines it. -/
theorem KeyRow.keyOff_of_hits (h : r.hits k = true) : keyOff k &&& keyOff r.mask = keyOff r.pattern := by
  rw [← hits_iff.1 h, keyOff, keyOff, keyOff, BitVec.extractLsb'_and]

/-- Keys that agree at every bit the row examines are in it together. -/
theorem KeyRow.hits_of_agree (h : r.hits k = true)
    (agree : ∀ j, r.mask.getLsbD j = true → k'.getLsbD j = k.getLsbD j) : r.hits k' = true := by
  refine hits_iff.2 (Eq.trans (BitVec.eq_of_getLsbD_eq fun j _ => ?_) (hits_iff.1 h))
  cases hm : r.mask.getLsbD j <;> simp [hm, agree j]

/-- Two rows ask for different values of the bits that both examine. -/
def KeyRow.Differ (r q : KeyRow) : Prop := r.pattern &&& q.mask ≠ q.pattern &&& r.mask

/-- No key is in two rows that differ. -/
theorem KeyRow.Differ.not_hits (h : r.Differ q) (hr : r.hits k = true) : ¬ q.hits k = true := fun hq =>
  h (by rw [← hits_iff.1 hr, ← hits_iff.1 hq, BitVec.and_assoc, BitVec.and_assoc, BitVec.and_comm r.mask])

/-! ## The rows of the map (R82, R83) -/

/-- Any two rows of the map differ (R83). -/
theorem keyTable_differ : keyTable.Pairwise KeyRow.Differ := by
  unfold KeyRow.Differ
  decide

/-- No two rows overlap (R83). -/
theorem length_filter_hits_le_one (k : AccessKey) : (keyTable.filter (·.hits k)).length ≤ 1 := by
  have differ : (keyTable.filter (·.hits k)).Pairwise KeyRow.Differ := keyTable_differ.filter _
  have hit : ∀ r ∈ keyTable.filter (·.hits k), r.hits k = true := fun r hr => (List.mem_filter.1 hr).2
  generalize keyTable.filter (·.hits k) = rows at *
  match rows with
  | [] | [_] => simp
  | r :: q :: _ =>
    have hrq : r.Differ q := List.rel_of_pairwise_cons differ (by simp)
    exact absurd (hit q (by simp)) (hrq.not_hits (hit r (by simp)))

/-- A row that a key is in is the only one. -/
theorem filter_hits_eq_singleton (hr : r ∈ keyTable) (h : r.hits k = true) :
    keyTable.filter (·.hits k) = [r] := by
  have mem : r ∈ keyTable.filter (·.hits k) := List.mem_filter.2 ⟨hr, h⟩
  have one := le_antisymm (length_filter_hits_le_one k) (List.length_pos_of_mem mem)
  obtain ⟨q, hq⟩ := List.length_eq_one_iff.1 one
  rw [hq] at mem ⊢
  rw [List.mem_singleton.1 mem]

/-- The decoder answers what the row builds that the key is in. -/
theorem decodeKey_eq_ok : decodeKey k v = .ok i ↔ ∃ r ∈ keyTable, r.hits k = true ∧ r.build k v = i := by
  constructor
  · intro h
    unfold decodeKey at h
    split at h
    · rename_i r hr
      cases h
      exact ⟨r, List.mem_of_find?_eq_some hr, List.find?_some (p := fun r : KeyRow => r.hits k) hr, rfl⟩
    · cases h
  · rintro ⟨r, hr, h, rfl⟩
    have found : keyTable.find? (·.hits k) = some r := by
      rw [← List.head?_filter, filter_hits_eq_singleton hr h, List.head?_cons]
    rw [decodeKey, found]

/-- A key in no row is answered with its error. -/
theorem decodeKey_of_not_hits (h : ∀ r ∈ keyTable, ¬ r.hits k = true) : decodeKey k v = .error (.badAccess k) := by
  have none : keyTable.find? (·.hits k) = none := List.find?_eq_none.2 h
  rw [decodeKey, none]

/-- The decoder is total: a row's instruction or the key's error (R83). -/
theorem decodeKey_total (k : AccessKey) (v : Word) :
    (∃ i, decodeKey k v = .ok i) ∨ decodeKey k v = .error (.badAccess k) := by
  unfold decodeKey
  split
  · exact .inl ⟨_, rfl⟩
  · exact .inr rfl

/-- Every row asks for 0 in the low bit of SIZE. -/
theorem keyTable_size_low : ∀ r ∈ keyTable, r.mask.getLsbD 9 = true ∧ r.pattern.getLsbD 9 = false := by
  decide

/-- Every row is at a multiple of 4. -/
theorem keyTable_aligned : ∀ r ∈ keyTable, keyOff r.mask &&& 0x3 = 0x3 ∧ keyOff r.pattern &&& 0x3 = 0x0 := by
  decide

/-- Every row but USR's is of 32-bit accesses; USR's are at 0x7C. -/
theorem keyTable_word_or_usr : ∀ r ∈ keyTable,
    (r.mask.getLsbD 10 = true ∧ r.pattern.getLsbD 10 = true) ∨
      (keyOff r.mask = BitVec.allOnes 7 ∧ keyOff r.pattern = 0x7C) := by
  decide

/-- A row examines DLAB only where it is at offset 0x00 or 0x04 (R81). -/
theorem keyTable_dlab : ∀ r ∈ keyTable,
    r.mask.getLsbD 8 = false ∨
      (keyOff r.mask = BitVec.allOnes 7 ∧ (keyOff r.pattern = 0x00 ∨ keyOff r.pattern = 0x04)) := by
  decide

/-- What a row builds depends on the key's offset, direction and width at most. -/
theorem build_congr (hoff : keyOff k' = keyOff k) (hwe : bitSet k' 7 = bitSet k 7)
    (hsize : bitSet k' 10 = bitSet k 10) : ∀ r ∈ keyTable, r.build k' v = r.build k v := by
  simp [keyTable, keyRowsDlab, keyRowsPlain, keyRowsRsvd, keyOp, keyUsrWidth, keyUsrValue, hoff, hwe, hsize]

/-- The low bit of SIZE is 0 in every key of a row: neither 16-bit accesses nor SIZE 0b11 are in one. -/
theorem size_low_of_hits (hr : r ∈ keyTable) (h : r.hits k = true) : k.getLsbD 9 = false := by
  obtain ⟨hm, hp⟩ := keyTable_size_low r hr
  rw [KeyRow.getLsbD_of_hits h hm, hp]

end

/-! ## The keys of accesses (R81, R83) -/

section
variable {r : KeyRow} {dir : Dir} {off : Offset} {n : Width} {d d' : Bool} {v : Word} {i : Instr}

/-- Only the key of an admitted access is in a row (R65, R83). -/
theorem admittedShape_of_hits (hr : r ∈ keyTable) (h : r.hits (accessKey dir off n d) = true) :
    admittedShape off n = true := by
  cases n
  case byte =>
    rcases keyTable_word_or_usr r hr with ⟨hm, hp⟩ | ⟨hm, hp⟩
    · have wide := KeyRow.getLsbD_of_hits h hm
      rw [hp, ← bitSet, bitSet_accessKey_size] at wide
      cases wide
    · have offset := KeyRow.keyOff_of_hits h
      rw [hm, hp, BitVec.and_allOnes, keyOff_accessKey] at offset
      simp [admittedShape, offset]
  case half =>
    have size := size_low_of_hits hr h
    rw [getLsbD_accessKey] at size
    cases size
  case word =>
    obtain ⟨hm, hp⟩ := keyTable_aligned r hr
    have offset := KeyRow.keyOff_of_hits h
    rw [keyOff_accessKey] at offset
    have low : off &&& 0x3 = 0x0 := by rw [← hm, ← BitVec.and_assoc, offset, hp]
    have aligned : ∀ off : Offset, off &&& 0x3 = 0x0 → (off.toNat % 4 == 0) = true := by decide
    exact aligned off low

/-- Away from 0x00 and 0x04 a row that has a key has it with either DLAB (R81). -/
theorem hits_accessKey_dlab (hr : r ∈ keyTable) (h0 : off ≠ 0x00) (h4 : off ≠ 0x04)
    (h : r.hits (accessKey dir off n d) = true) : r.hits (accessKey dir off n d') = true := by
  rcases keyTable_dlab r hr with masked | ⟨hm, hp⟩
  · refine KeyRow.hits_of_agree h fun j hj => ?_
    have : j ≠ 8 := by
      rintro rfl
      rw [masked] at hj
      cases hj
    grind [getLsbD_accessKey]
  · have offset := KeyRow.keyOff_of_hits h
    rw [hm, BitVec.and_allOnes, keyOff_accessKey] at offset
    rcases hp with hp | hp
    · exact absurd (offset.trans hp) h0
    · exact absurd (offset.trans hp) h4

/-- Away from 0x00 and 0x04 a key decodes alike with either DLAB (R81). -/
theorem decodeKey_accessKey_dlab (h0 : off ≠ 0x00) (h4 : off ≠ 0x04)
    (h : decodeKey (accessKey dir off n d) v = .ok i) : decodeKey (accessKey dir off n d') v = .ok i := by
  obtain ⟨r, hr, hit, hi⟩ := decodeKey_eq_ok.1 h
  exact decodeKey_eq_ok.2 ⟨r, hr, hits_accessKey_dlab hr h0 h4 hit,
    (build_congr (by simp) (by simp) (by simp) r hr).trans hi⟩

end

/-- Settles O3: any two rows differ in a bit both examine, and every row fixes enough of SIZE and OFF to admit only
the shapes of R65. -/
theorem keysSelectOneRow : Obligations.KeysSelectOneRow := by
  refine ⟨fun dir off n dlab => ?_, fun k hk v => ?_, length_filter_hits_le_one, decodeKey_total⟩
  · split
    next h =>
      obtain ⟨i, hi, -⟩ := decodeKey_accessKey dir dlab 0 h
      obtain ⟨r, hr, hit, -⟩ := decodeKey_eq_ok.1 hi
      rw [filter_hits_eq_singleton hr hit, List.length_singleton]
    next h =>
      rw [List.length_eq_zero_iff, List.filter_eq_nil_iff]
      exact fun r hr hit => h (admittedShape_of_hits hr hit)
  · have size : k.getLsbD 9 = true := by simpa using congrArg (BitVec.getLsbD · 0) hk
    refine decodeKey_of_not_hits fun r hr hit => ?_
    rw [size_low_of_hits hr hit] at size
    cases size

/-- Settles O4: a row elsewhere masks DLAB out, and builds from offset, direction and width alone. -/
theorem dlabSelects : Obligations.DlabSelects := by
  refine ⟨fun v => ⟨rfl, rfl, rfl, rfl, rfl, rfl, rfl, rfl⟩, fun dir off n v h0 h4 => ?_⟩
  rcases decodeKey_total (accessKey dir off n true) v with ⟨i, hi⟩ | he
  · rw [hi, decodeKey_accessKey_dlab h0 h4 hi]
  · rcases decodeKey_total (accessKey dir off n false) v with ⟨i, hi⟩ | he'
    · rw [hi, decodeKey_accessKey_dlab h0 h4 hi]
    · rw [he, he']
      rfl

/-! ## Command words (R85 to R88) -/

section
variable {w : Word} {rest : List Word} (op : BitVec 4) (low : BitVec 28)

@[simp] theorem opField_commandWord : opField (commandWord op low) = op :=
  BitVec.extractLsb'_append_eq_left

/-- A field of a command word below OP is the field of its bits 27:0. -/
theorem extractLsb'_commandWord {start len : Nat} (h : start + len ≤ 28) :
    (commandWord op low).extractLsb' start len = low.extractLsb' start len :=
  BitVec.extractLsb'_append_eq_of_add_le h

theorem lowByte_commandWord : lowByte (commandWord op low) = low.setWidth 8 := by
  rw [lowByte, commandWord]
  exact (BitVec.setWidth_append).trans (dif_pos (by decide))

/-- OP = 0x1 is CONFIGURE (R85). -/
theorem decodeCommand_configure (h : opField w = 0x1) : decodeCommand (w :: rest) = decodeConfigure w rest := by
  simp [decodeCommand, h]

/-- OP = 0x2 is WRITE_BYTE (R85). -/
theorem decodeCommand_writeByte (h : opField w = 0x2) :
    decodeCommand (w :: rest) =
      if w.extractLsb' 8 20 = 0 then .ok (.writeByte (lowByte w)) else .error (.reservedCmd w) := by
  simp [decodeCommand, h]

/-- A CONFIGURE with its field 22:0 clear, a parity and a BAUD word is decoded field by field (R86). -/
theorem decodeConfigure_cons {par : Parity} {baud : Word} (zero : w.extractLsb' 0 23 = 0)
    (hpar : Parity.ofCode (w.extractLsb' 23 2) = some par) :
    decodeConfigure w (baud :: rest) =
      .ok (.configure (WordLength.ofCode (w.extractLsb' 26 2)) (StopBits.ofBit (bitSet w 25)) par baud) := by
  unfold decodeConfigure
  rw [if_neg (not_not.2 zero), hpar]

/-- CONFIGURE is decoded from its own word and the next (R88). -/
theorem decodeConfigure_take : decodeConfigure w rest = decodeConfigure w (rest.take 1) := by
  unfold decodeConfigure
  cases rest
  case nil => rfl
  case cons => cases Parity.ofCode (w.extractLsb' 23 2) <;> rfl

/-- Every command but CONFIGURE is decoded from its own word (R88). -/
theorem decodeCommand_of_ne_configure (h : opField w ≠ 0x1) : decodeCommand (w :: rest) = decodeCommand [w] := by
  simp only [decodeCommand]
  split
  next hw => exact absurd (BitVec.eq_of_toNat_eq hw) h
  all_goals rfl

end

/-! ## Decoding an encoding -/

section
variable {off : Offset} {op : BusOp}

/-- The access of a reserved word in a row decodes to what the row builds from its offset and direction. -/
theorem decode_encodeOp (pattern mask : AccessKey) (build : Offset → BusOp → Instr)
    (hr : ⟨pattern, mask, fun k v => build (keyOff k) (keyOp k v)⟩ ∈ keyTable)
    (hit : Laws.TableRow.bits (encodeOp off op) &&& mask.toNat = pattern.toNat) :
    decode (encodeOp off op) = .ok (build off op) := by
  cases op <;>
    exact decodeKey_eq_ok.2 ⟨_, hr, KeyRow.hits_iff.2 (BitVec.eq_of_toNat_eq hit), by simp [keyOp]⟩

@[simp] theorem WordLength.ofCode_code (wl : WordLength) : WordLength.ofCode wl.code = wl := by cases wl <;> rfl

@[simp] theorem StopBits.ofBit_code (st : StopBits) : StopBits.ofBit (bitSet st.code 0) = st := by cases st <;> rfl

@[simp] theorem Parity.ofCode_code (par : Parity) : Parity.ofCode par.code = some par := by cases par <;> rfl

/-- The fields of CONFIGURE's first word (R85). -/
theorem configureWord_fields {w : Word} {wl : BitVec 2} {st : BitVec 1} {par : BitVec 2}
    (hw : w = commandWord 0x1 (wl ++ (st ++ (par ++ 0#23)))) :
    w.extractLsb' 0 23 = 0 ∧ w.extractLsb' 23 2 = par ∧ bitSet w 25 = bitSet st 0 ∧ w.extractLsb' 26 2 = wl := by
  subst hw
  revert wl st par
  decide

/-- CONFIGURE's encoding decodes to it, whatever its format and its BAUD word. -/
theorem decode_configure (wl : WordLength) (st : StopBits) (par : Parity) (baud : Word) :
    decode (encode (.configure wl st par baud)) = .ok (.configure wl st par baud) := by
  obtain ⟨zero, hpar, hst, hwl⟩ := configureWord_fields (wl := wl.code) (st := st.code) (par := par.code) rfl
  rw [encode, decode, decodeCommand_configure (opField_commandWord _ _),
    decodeConfigure_cons zero (hpar ▸ Parity.ofCode_code par), hwl, hst, WordLength.ofCode_code, StopBits.ofBit_code]

/-- WRITE_BYTE's encoding decodes to it, whatever its byte. -/
theorem decode_writeByte (b : Byte) : decode (encode (.writeByte b)) = .ok (.writeByte b) := by
  have zero : (commandWord 0x2 (b.setWidth 28)).extractLsb' 8 20 = 0 := by
    rw [extractLsb'_commandWord _ _ (by decide)]
    refine BitVec.eq_of_getLsbD_eq fun j _ => ?_
    simp
  rw [encode, decode, decodeCommand_writeByte (opField_commandWord _ _), if_pos zero, lowByte_commandWord]
  simp

end

/-- Settles O1: an encoding lies in its instruction's row (`TableRow`), which is then the only one, and the row's
fields give the operands back. -/
theorem decodeOfEncode : Obligations.DecodeOfEncode := by
  intro i wf
  cases i
  case rdUsr n => cases n <;> rfl
  case wrUsr v =>
    cases v
    case byte b => exact congrArg (fun b => Except.ok (Instr.wrUsr (.byte b))) (lowByte_byteWord b)
    case word w => rfl
  case rsvd1C op =>
    exact decode_encodeOp 0x41C 0x67F (fun _ op => .rsvd1C op) (by simp [keyTable, keyRowsRsvd])
      (Laws.TableRow.rsvd1C op wf)
  case rsvd20 off op =>
    exact decode_encodeOp 0x420 0x663 .rsvd20 (by simp [keyTable, keyRowsRsvd]) (Laws.TableRow.rsvd20 off op wf)
  case rsvd40 off op =>
    exact decode_encodeOp 0x440 0x663 .rsvd40 (by simp [keyTable, keyRowsRsvd]) (Laws.TableRow.rsvd40 off op wf)
  case rsvd60 off op =>
    exact decode_encodeOp 0x460 0x673 .rsvd60 (by simp [keyTable, keyRowsRsvd]) (Laws.TableRow.rsvd60 off op wf)
  case rsvd70 off op =>
    exact decode_encodeOp 0x470 0x67B .rsvd70 (by simp [keyTable, keyRowsRsvd]) (Laws.TableRow.rsvd70 off op wf)
  case rsvd78 op =>
    exact decode_encodeOp 0x478 0x67F (fun _ op => .rsvd78 op) (by simp [keyTable, keyRowsRsvd])
      (Laws.TableRow.rsvd78 op wf)
  case configure wl st par baud => exact decode_configure wl st par baud
  case writeByte b => exact decode_writeByte b
  all_goals rfl

/-! ## Decoded instructions are well-formed -/

section
variable {r : KeyRow} {k : AccessKey} {v : Word} {i : Instr}

/-- A row builds a well-formed instruction from a key that is in it. -/
theorem wf_build : ∀ r ∈ keyTable, r.hits k = true → (r.build k v).wf = true := by
  have in20 : ∀ off : Offset, off &&& 0x63 = 0x20 → inRsvd20 off = true := by decide
  have in40 : ∀ off : Offset, off &&& 0x63 = 0x40 → inRsvd40 off = true := by decide
  have in60 : ∀ off : Offset, off &&& 0x73 = 0x60 → inRsvd60 off = true := by decide
  have in70 : ∀ off : Offset, off &&& 0x7B = 0x70 → inRsvd70 off = true := by decide
  simp only [keyTable, keyRowsDlab, keyRowsPlain, keyRowsRsvd, List.cons_append, List.nil_append, List.mem_cons,
    forall_eq_or_imp, Instr.wf, implies_true, true_and, List.not_mem_nil, IsEmpty.forall_iff, and_true]
  exact ⟨fun h => in20 _ (KeyRow.keyOff_of_hits h), fun h => in40 _ (KeyRow.keyOff_of_hits h),
    fun h => in60 _ (KeyRow.keyOff_of_hits h), fun h => in70 _ (KeyRow.keyOff_of_hits h)⟩

/-- Every command is well-formed: only a reserved row's offset is ever checked. -/
theorem wf_of_isCommand (h : isCommand i = true) : i.wf = true := by
  cases i
  case configure | writeByte | flush | readByte | release | split => rfl
  all_goals cases h

/-- What the decoder answers is well-formed. -/
theorem wf_of_decode {e : Encoding} (h : decode e = .ok i) : i.wf = true := by
  cases e
  case access k v =>
    obtain ⟨r, hr, hit, rfl⟩ := decodeKey_eq_ok.1 h
    exact wf_build r hr hit
  case command ws => exact wf_of_isCommand (isCommand_of_decodeCommand h)

end

/-- Settles O2: once what the decoder answers is well-formed, O1 gives the rest. -/
theorem decodedIsWellFormed : Obligations.DecodedIsWellFormed := fun _ i h =>
  ⟨wf_of_decode h, decodeOfEncode i (wf_of_decode h)⟩

/-! ## Reserved and illegal commands (R87) -/

/-- PAR = 0b11 is the reserved code (R86, R87). -/
theorem Parity.ofCode_eq_none : ∀ {c : BitVec 2}, Parity.ofCode c = Option.none ↔ c = 0b11 := by
  decide

/-- A decoder's answer to a command word: rejected where the word is bad, an instruction where it is not. -/
def RejectsExactly (bad : Bool) (w : Word) (answer : Except DecodeError Instr) : Prop :=
  if bad then answer = .error (.reservedCmd w) else ∃ i, answer = .ok i

section
variable (w : Word) (rest : List Word)

/-- CONFIGURE's word is rejected for a bit of its field 22:0, for PAR = 0b11 and for a missing BAUD word (R87). -/
theorem decodeConfigure_rejects :
    RejectsExactly (w.extractLsb' 0 23 != 0 || w.extractLsb' 23 2 == 0b11 || rest.isEmpty) w
      (decodeConfigure w rest) := by
  unfold RejectsExactly decodeConfigure
  by_cases zero : w.extractLsb' 0 23 = 0#23
  case neg => simp [zero]
  case pos =>
    cases hp : Parity.ofCode (w.extractLsb' 23 2) with
    | none => simp [zero, Parity.ofCode_eq_none.1 hp]
    | some p =>
      have legal : w.extractLsb' 23 2 ≠ 0b11#2 := fun h => by simp [Parity.ofCode_eq_none.2 h] at hp
      cases rest <;> simp [zero, legal]

/-- A command without operands is rejected for a bit of its field 27:0 (R87). -/
theorem decodeBare_rejects (i : Instr) : RejectsExactly (w.extractLsb' 0 28 != 0) w (decodeBare w i) := by
  by_cases h : w.extractLsb' 0 28 = 0#28 <;> simp [RejectsExactly, decodeBare, h]

/-- WRITE_BYTE's word is rejected for a bit of its field 27:8 (R87). -/
theorem decodeWriteByte_rejects : RejectsExactly (w.extractLsb' 8 20 != 0) w
    (if w.extractLsb' 8 20 = 0 then .ok (.writeByte (lowByte w)) else .error (.reservedCmd w)) := by
  by_cases h : w.extractLsb' 8 20 = 0#20 <;> simp [RejectsExactly, h]

/-- What is illegal in a command of an OP from 0x3 to 0x6 (R87). -/
theorem illegalCommand_of_bare_op (h : 3 ≤ (opField w).toNat ∧ (opField w).toNat ≤ 6) :
    illegalCommand w rest = (w.extractLsb' 0 28 != 0) := by
  have bare : ∀ o : BitVec 4, 3 ≤ o.toNat ∧ o.toNat ≤ 6 → o ≠ 0x1 ∧ o ≠ 0x2 ∧ 0x3 ≤ o ∧ o ≤ 0x6 := by decide
  obtain ⟨h1, h2, h3⟩ := bare _ h
  rw [illegalCommand, ← opField, if_neg h1, if_neg h2, if_pos h3]

/-- An OP other than 0x1 to 0x6 is reserved (R87). -/
theorem illegalCommand_of_reserved_op (h : (opField w).toNat = 0 ∨ 7 ≤ (opField w).toNat) :
    illegalCommand w rest = true := by
  have reserved : ∀ o : BitVec 4, o.toNat = 0 ∨ 7 ≤ o.toNat → o ≠ 0x1 ∧ o ≠ 0x2 ∧ ¬ (0x3 ≤ o ∧ o ≤ 0x6) := by decide
  obtain ⟨h1, h2, h3⟩ := reserved _ h
  rw [illegalCommand, ← opField, if_neg h1, if_neg h2, if_neg h3]

/-- The decoder rejects a command word exactly where R87 lists it. -/
theorem decodeCommand_rejects : RejectsExactly (illegalCommand w rest) w (decodeCommand (w :: rest)) := by
  simp only [decodeCommand]
  split
  case h_1 hw =>
    rw [illegalCommand, if_pos (BitVec.eq_of_toNat_eq hw)]
    exact decodeConfigure_rejects w rest
  case h_2 hw =>
    have op : opField w = 0x2 := BitVec.eq_of_toNat_eq hw
    rw [illegalCommand, ← opField, op]
    exact decodeWriteByte_rejects w
  case h_3 hw | h_4 hw | h_5 hw | h_6 hw =>
    rw [illegalCommand_of_bare_op w rest (by omega)]
    exact decodeBare_rejects w _
  case h_7 =>
    simp only [imp_false] at *
    rw [illegalCommand_of_reserved_op w rest (by omega)]
    rfl

variable {w rest}

/-- An illegal command word is rejected by its own value (R87). -/
theorem decodeCommand_of_illegal (h : illegalCommand w rest = true) :
    decodeCommand (w :: rest) = .error (.reservedCmd w) := by
  simpa [RejectsExactly, h] using decodeCommand_rejects w rest

/-- Any other word is a command (R85). -/
theorem decodeCommand_of_legal (h : illegalCommand w rest = false) : ∃ i, decodeCommand (w :: rest) = .ok i := by
  simpa [RejectsExactly, h] using decodeCommand_rejects w rest

/-- Only an illegal command word is rejected (R87). -/
theorem illegal_of_decodeCommand (h : decodeCommand (w :: rest) = .error (.reservedCmd w)) :
    illegalCommand w rest = true := by
  by_contra legal
  obtain ⟨i, hi⟩ := decodeCommand_of_legal (Bool.eq_false_iff.2 legal)
  rw [hi] at h
  cases h

/-- An engine agent at an illegal command word is refused with its pointer and the word (R160, R221). -/
theorem engineStep_of_illegal {e : EngineId} {s : State} (hw : (s.engine e).words = w :: rest)
    (h : illegalCommand w rest = true) : engineStep e s = .refused (.reservedCmd e (s.engine e).cp w) := by
  simp [engineStep, hw, decodeCommand_of_illegal h]

end

/-- Settles O5, from the decoder's answer OP by OP. -/
theorem reservedCommandsRefused : Obligations.ReservedCommandsRefused :=
  ⟨fun _ _ => ⟨illegal_of_decodeCommand, decodeCommand_of_illegal⟩, fun _ _ => decodeCommand_of_legal,
    fun _ _ _ _ => engineStep_of_illegal⟩

/-- Settles O6: only CONFIGURE's arm of the decoder looks at a word after the first. -/
theorem lengthFromFirstWord : Obligations.LengthFromFirstWord := by
  refine ⟨fun _ => rfl, fun i ws h => ?_, fun w rest => ?_⟩
  · cases i
    case configure | writeByte | flush | readByte | release | split =>
      cases h
      simp [commandLength]
    case rdUsr n => cases n <;> cases h
    case wrUsr v => cases v <;> cases h
    case rsvd1C op | rsvd20 op | rsvd40 op | rsvd60 op | rsvd70 op | rsvd78 op => cases op <;> cases h
    all_goals cases h
  · by_cases h : opField w = 0x1
    · rw [commandLength, if_pos h, decodeCommand_configure h, decodeConfigure_take]
      exact (decodeCommand_configure h).symm
    · rw [commandLength, if_neg h, decodeCommand_of_ne_configure h]
      rfl

/-- Settles O7, by running the decoder on the six closed words. -/
theorem sampleWordsDecode : Obligations.SampleWordsDecode := ⟨rfl, rfl, rfl, rfl, rfl, rfl⟩

end Sys2Proof

/-! # Register accesses: each row's answer with the gate ON (40_register_access R100 to R120) -/

namespace Sys2Proof.Machine

/-! ## The status bits as facts of the state (R31, R32) -/

section
variable (s : State) (high : BitVec 3)

theorem State.busy_iff : s.busy = true ↔ 0 < s.txq.length ∨ s.txsh ≠ none ∨ s.rxActive = true := by
  simp [State.busy, List.length_pos_iff, Option.isSome_iff_ne_none, or_assoc]

theorem State.tfnf_iff : s.tfnf = true ↔ s.txq.length < s.par.txDepth := decide_eq_true_iff

theorem State.tfe_iff : s.tfe = true ↔ s.txq.length = 0 := by
  rw [State.tfe, List.isEmpty_iff, List.length_eq_zero_iff]

theorem State.rfne_iff : s.rfne = true ↔ 0 < s.rxq.length := by
  simp [State.rfne, List.length_pos_iff]

theorem State.rff_iff : s.rff = true ↔ s.rxq.length = s.par.rxDepth := decide_eq_true_iff

theorem State.dr_eq : s.dr = decide (0 < s.rxq.length) := by
  rw [State.dr]
  cases s.rxq <;> simp

/-! ## USR's byte, field by field -/

theorem bitSet_usr_busy : bitSet (s.usr high) 0 = s.busy := congrArg UsrStatus.busy (statusDecode_usr s high)

theorem bitSet_usr_tfnf : bitSet (s.usr high) 1 = s.tfnf :=
  congrArg UsrStatus.transmitFifoNotFull (statusDecode_usr s high)

theorem bitSet_usr_tfe : bitSet (s.usr high) 2 = s.tfe :=
  congrArg UsrStatus.transmitFifoEmpty (statusDecode_usr s high)

theorem bitSet_usr_rfne : bitSet (s.usr high) 3 = s.rfne :=
  congrArg UsrStatus.receiveFifoNotEmpty (statusDecode_usr s high)

theorem bitSet_usr_rff : bitSet (s.usr high) 4 = s.rff :=
  congrArg UsrStatus.receiveFifoFull (statusDecode_usr s high)

theorem usr_high : (s.usr high).extractLsb' 5 3 = high := BitVec.extractLsb'_append_eq_left

/-- An 8-bit value on the bus has 24 zero bits above it (R9). -/
theorem byteWord_eq_append (b : Byte) : byteWord b = 0#24 ++ b :=
  BitVec.setWidth_eq_append (by decide)

end

/-! ## Behind the gate check -/

section
variable {s : State} (hg : s.gate = .on) {dir : Dir} {off : Offset} {n : Width}
include hg

theorem deliver_gated (r : BusResult) : deliver (gated dir off n s r) = deliver r := by
  rw [gated_on _ _ _ _ _ hg]

theorem deliver_gated_refused (r : Refusal) : deliver (gated dir off n s (.refused r)) = .refused r :=
  deliver_gated hg _

/-- A 32-bit read of a byte, from `s` or from `s` with its FIFO popped (R27). -/
theorem deliver_gated_readByteReg (t : State) (b : Byte) :
    deliver (gated dir off n s (readByteReg t b)) =
      .next { t with draws := t.draws + 1, portData := t.free.extractLsb' 8 24 ++ b } :=
  deliver_gated hg _

/-- LCR_BUSY_GUARD loses a write while BUSY = 1 (R103, R107, R111). -/
theorem deliver_gated_busyGuarded_lost (t : State) (lost : (s.par.lcrBusyGuard && s.busy) = true) :
    deliver (gated dir off n s (busyGuarded s t)) = .next s := by
  rw [deliver_gated hg, busyGuarded, if_pos lost, deliver_write]

/-- A write that is not lost is made (R103, R107, R111). -/
theorem deliver_gated_busyGuarded_made (t : State) (made : (s.par.lcrBusyGuard && s.busy) = false) :
    deliver (gated dir off n s (busyGuarded s t)) = .next t := by
  rw [deliver_gated hg, busyGuarded, if_neg (by simp [made]), deliver_write]

/-- A reserved word is refused in either direction (R120). -/
theorem deliver_refuseReserved (op : BusOp) :
    deliver (refuseReserved off op s) = .refused (.reservedOffset off) := by
  cases op <;> exact deliver_gated_refused hg _

end

/-! ## The FIFO accesses (R100, R101) -/

section
variable {s : State} (hg : s.gate = .on)
include hg

theorem exec_rdRbr_cons {c : Byte} {q : List Byte} (hq : s.rxq = c :: q) :
    exec .rdRbr s =
      .next { s with rxq := q, draws := s.draws + 1, portData := s.free.extractLsb' 8 24 ++ c } := by
  rw [exec, execRdRbr, rowRdRbr, hq]
  exact deliver_gated_readByteReg hg _ c

theorem exec_rdRbr_empty (hq : s.rxq = []) : exec .rdRbr s = .fault (.rxUnderflow 0x00) := by
  rw [exec, execRdRbr, rowRdRbr, hq]
  exact deliver_gated hg _

theorem exec_wrThr_room (v : Word) (hq : s.txq.length ≠ s.par.txDepth) :
    exec (.wrThr v) s = .next { s with txq := s.txq ++ [lowByte v] } := by
  rw [exec, execWrThr, rowWrThr, if_neg hq]
  exact deliver_gated hg _

theorem exec_wrThr_full (v : Word) (hq : s.txq.length = s.par.txDepth) :
    exec (.wrThr v) s = .fault (.txOverflow (lowByte v)) := by
  rw [exec, execWrThr, rowWrThr, if_pos hq]
  exact deliver_gated hg _

end

/-- Popping a full FIFO leaves it one short of its depth (R100). -/
theorem rff_pop_of_full {s : State} {c : Byte} {q : List Byte} (hq : s.rxq = c :: q)
    (full : s.rxq.length = s.par.rxDepth) : State.rff { s with rxq := q } = false := by
  rw [hq, List.length_cons] at full
  exact decide_eq_false (by dsimp only; omega)

/-- A pushed character is seen at once: BUSY = 1, TFE = 0, and TFNF where one more has room (R31, R101). -/
theorem status_push (s : State) (b : Byte) :
    State.busy { s with txq := s.txq ++ [b] } = true ∧ State.tfe { s with txq := s.txq ++ [b] } = false ∧
      State.tfnf { s with txq := s.txq ++ [b] } = decide (s.txq.length + 1 < s.par.txDepth) := by
  simp [State.busy, State.tfe, State.tfnf]

/-! ## The read of USR (R118) -/

/-- What stands above USR's byte on the bus: zeros in an 8-bit read, free bits in a 32-bit one (R118). -/
def State.aboveUsr (s : State) : UsrWidth → BitVec 24
  | .byte => 0
  | .word => s.free.extractLsb' 8 24

theorem exec_rdUsr {s : State} (hg : s.gate = .on) (n : UsrWidth) :
    exec (.rdUsr n) s = .next { s with
      draws := s.draws + 1, portData := s.aboveUsr n ++ s.usr (s.free.extractLsb' 0 3) } := by
  cases n
  case byte =>
    rw [exec, execRdUsr, rowRdUsr, byteWord_eq_append]
    exact deliver_gated hg _
  case word => exact deliver_gated_readByteReg hg s _

/-! ## The obligations -/

/-- Settles O8, by the FIFO's two cases. -/
theorem readRbr : Obligations.ReadRbr :=
  ⟨fun _ => rfl, fun _ hg => ⟨fun _ _ hq => ⟨exec_rdRbr_cons hg hq, rff_pop_of_full hq⟩, exec_rdRbr_empty hg⟩⟩

/-- Settles O9, by the FIFO's two cases. -/
theorem writeThr : Obligations.WriteThr :=
  ⟨fun _ => rfl, fun v s hg => ⟨fun hq => ⟨_, exec_wrThr_room hg v hq, rfl, status_push s _⟩, exec_wrThr_full hg v⟩⟩

/-- Settles O10: the four rows read a stored byte. -/
theorem readStoredRegisters : Obligations.ReadStoredRegisters :=
  ⟨fun _ => ⟨rfl, rfl, rfl, rfl, rfl⟩, fun s hg =>
    ⟨deliver_gated_readByteReg hg s s.dll, deliver_gated_readByteReg hg s s.ier,
      deliver_gated_readByteReg hg s s.dlh, deliver_gated_readByteReg hg s s.lcr⟩⟩

/-- Settles O11: WR_IER is unguarded, and the guard decides the other three alike. -/
theorem writeStoredRegisters : Obligations.WriteStoredRegisters := by
  refine ⟨fun _ => ⟨rfl, rfl, rfl, rfl, rfl⟩, fun v s hg => ⟨deliver_gated hg _, fun lost => ?_, fun made => ?_⟩⟩
  · exact ⟨deliver_gated_busyGuarded_lost hg _ lost, deliver_gated_busyGuarded_lost hg _ lost,
      deliver_gated_busyGuarded_lost hg _ lost⟩
  · exact ⟨deliver_gated_busyGuarded_made hg _ made, deliver_gated_busyGuarded_made hg _ made,
      deliver_gated_busyGuarded_made hg _ made⟩

/-- Settles O12: LSR is read as a stored byte is, its bit 0 being DR. -/
theorem readLsr : Obligations.ReadLsr := by
  refine ⟨fun _ => ⟨rfl, rfl⟩, fun s hg => ?_⟩
  rw [← s.dr_eq]
  exact deliver_gated_readByteReg hg s (s.lsr (s.free.extractLsb' 0 7))

/-- Settles O13: the byte delivered is USR's, whose five low bits are the status bits. -/
theorem readUsr : Obligations.ReadUsr := by
  refine ⟨fun _ => ⟨rfl, rfl, rfl, rfl⟩, fun n s hg =>
    ⟨_, s.usr (s.free.extractLsb' 0 3), exec_rdUsr hg n, rfl, rfl, usr_high s _, ?_⟩⟩
  rw [bitSet_usr_busy, bitSet_usr_tfnf, bitSet_usr_tfe, bitSet_usr_rfne, bitSet_usr_rff]
  exact ⟨s.busy_iff, s.tfnf_iff, s.tfe_iff, s.rfne_iff, s.rff_iff⟩

/-- Settles O14: behind the gate check each of these rows is a refusal, whatever its operand. -/
theorem refusedRowsStop : Obligations.RefusedRowsStop :=
  ⟨fun _ => rfl, fun _ => rfl, fun _ _ op _ _ hg =>
    ⟨deliver_gated_refused hg _, deliver_gated_refused hg _, deliver_gated_refused hg _,
      deliver_gated_refused hg _, deliver_gated_refused hg _, deliver_gated_refused hg _,
      deliver_gated_refused hg _, deliver_gated_refused hg _,
      deliver_refuseReserved hg op, deliver_refuseReserved hg op, deliver_refuseReserved hg op,
      deliver_refuseReserved hg op, deliver_refuseReserved hg op, deliver_refuseReserved hg op⟩⟩

end Sys2Proof.Machine

/-! # The line-control decoder's functions (41_line_control_decoder) -/

namespace Sys2Proof.Machine

/-! ## LCR_ENCODE and LCR_DECODE (R141, R142) -/

/-- LCR_DECODE gives back what LCR_ENCODE packed. -/
@[simp] theorem lcrDecode_lcrEncode (wl : WordLength) (st : StopBits) (par : Parity) :
    lcrDecode (lcrEncode wl st par) = some (wl, st, par) := by
  have fields : ∀ (even enable stop : BitVec 1) (dls : BitVec 2), (enable = 0 → even = 0) →
      lcrDecode (0#1 ++ (even ++ (enable ++ (stop ++ dls)))) =
        some (WordLength.ofCode dls, StopBits.ofBit (bitSet stop 0),
          if enable = 0 then .none else if even = 0 then .odd else .even) := by decide
  rw [lcrEncode, fields _ _ _ _ (by cases par <;> decide), WordLength.ofCode_code, StopBits.ofBit_code]
  cases par <;> rfl

/-- A six-bit value that LCR_DECODE accepts is LCR_ENCODE's of what it answers. -/
theorem lcrEncode_of_mem_lcrDecode : ∀ f : BitVec 6, ∀ x ∈ lcrDecode f, lcrEncode x.1 x.2.1 x.2.2 = f := by
  decide

/-- Settles O20: the rows are evaluated, and the values are distinct because LCR_DECODE tells them apart. -/
theorem lcrEncodeTable : Obligations.LcrEncodeTable := by
  refine ⟨rfl, rfl, rfl, rfl, rfl, rfl, fun wl wl' st st' par par' same => ?_⟩
  have decoded := congrArg lcrDecode same
  simpa only [lcrDecode_lcrEncode, Option.some.injEq, Prod.mk.injEq] using decoded

/-- Settles O21: each of the two functions undoes the other. -/
theorem lcrDecodeInverts : Obligations.LcrDecodeInverts := fun f wl st par =>
  ⟨lcrEncode_of_mem_lcrDecode f (wl, st, par), fun encoded => encoded ▸ lcrDecode_lcrEncode wl st par⟩

/-! ## DIVISOR (R143, R144) -/

/-- Settles O22, by DIVISOR's two tests. -/
theorem divisorRule : Obligations.DivisorRule := fun _ _ =>
  ⟨fun zero => if_pos zero,
    fun nonzero range => (if_neg nonzero).trans (if_pos range),
    fun nonzero h16 h8 => divisor_eq_ok.2 ⟨nonzero, h16, h8, rfl⟩⟩

/-- The floor quotient of R143 is C / (16 B) rounded to the nearest integer, halves up: adding 8 B to the
dividend adds one half to the ratio. -/
theorem floor_ratio_add_half {b : ℕ} (c : ℕ) (hb : b ≠ 0) :
    ⌊(c : ℚ) / (16 * b) + 1 / 2⌋ = ((c + 8 * b) / (16 * b) : ℕ) := by
  have half : (c : ℚ) / (16 * b) + 1 / 2 = ((c + 8 * b : ℕ) : ℚ) / (16 * b : ℕ) := by
    push_cast
    field_simp
    ring
  rw [half, Rat.floor_natCast_div_natCast, Int.natCast_ediv]

/-- Settles O23: DIVISOR's quotient is the rounded ratio. -/
theorem divisorIsNearest : Obligations.DivisorIsNearest := by
  intro c b d ok
  obtain ⟨hb, -, -, quotient⟩ := divisor_eq_ok.1 ok
  rw [quotient, floor_ratio_add_half c hb, BitVec.ofInt_natCast]

/-! ## STATUS_DECODE (R145) -/

/-- Settles O25: on any byte the five tests are its bits, and on USR's byte those bits are the status bits. -/
theorem statusDecoder : Obligations.StatusDecoder :=
  ⟨fun _ => ⟨rfl, rfl, rfl, rfl, rfl⟩, statusDecode_usr⟩

end Sys2Proof.Machine

/-! # The fetch of a command (42_poll_engine R160, R167) -/

namespace Sys2Proof.Safety

open Sys2Proof.Machine

section
variable {s t : State} {i : Instr} {op : CommandOp}

/-- The fetch is the admission check, then the command's own checks, then its first phase (R160). -/
theorem exec_fetch (hop : opOf i = some op) (hp : s.self.phase = .idle) :
    exec i s = whenAdmitted op s
      (match fetchRefusal s.par.clkHz s.cur s.self i with
        | some r => .refused r
        | none => .next (s.toPhase (firstPhase op))) := by
  cases i <;> cases hop
  case configure wl st par baud =>
    simp only [exec, execConfigure, hp, withDivisor, currentFrequency, fetchRefusal]
    cases divisor s.par.clkHz baud.toNat <;> rfl
  case split =>
    simp only [exec, execSplit, hp, fetchRefusal]
    split <;> rfl
  all_goals
    simp only [exec, execWriteByte, execFlush, execReadByte, execRelease, hp]
    rfl

/-- A fetch that answers a next state has admitted its command, found nothing to refuse and entered its first
phase. -/
theorem exec_fetch_eq_next (hop : opOf i = some op) (hp : s.self.phase = .idle) :
    exec i s = .next t ↔ admitted s.cur s.hs op = true ∧ fetchRefusal s.par.clkHz s.cur s.self i = none ∧
      s.toPhase (firstPhase op) = t := by
  rw [exec_fetch hop hp, whenAdmitted_eq_next]
  cases fetchRefusal s.par.clkHz s.cur s.self i <;> simp

/-- An admitted command with something to refuse is refused with it (R160). -/
theorem exec_fetch_refused (hop : opOf i = some op) (hp : s.self.phase = .idle) (ha : admitted s.cur s.hs op = true)
    {r : Refusal} (hr : fetchRefusal s.par.clkHz s.cur s.self i = some r) : exec i s = .refused r := by
  rw [exec_fetch hop hp, whenAdmitted, if_pos ha, hr]

/-- A command that is not admitted is refused at its fetch, whatever else would be checked (R167). -/
theorem exec_fetch_not_admitted (hop : opOf i = some op) (hp : s.self.phase = .idle)
    (ha : admitted s.cur s.hs op = false) :
    exec i s = .refused (.wrongHandleState s.cur (.notAdmitted s.hs op.code)) := by
  rw [exec_fetch hop hp, whenAdmitted, if_neg (by simp [ha])]

/-- The admission table of R167. -/
theorem admitted_iff (a : EngineId) (hs : HandleState) (op : CommandOp) : admitted a hs op = true ↔
    (a = .eng ∧ hs = .unbound ∧ op = .configure) ∨
    (a = .eng ∧ hs = .serial ∧
      (op = .writeByte ∨ op = .flush ∨ op = .readByte ∨ op = .release ∨ op = .split)) ∨
    (a = .engTx ∧ hs = .split ∧ (op = .writeByte ∨ op = .flush)) ∨
    (a = .engRx ∧ hs = .split ∧ op = .readByte) := by
  cases a <;> cases hs <;> simp [admitted, or_assoc]

end

/-- Settles O30: the table row by row, and the admission check, which stands before every other. -/
theorem admissionTable : Obligations.AdmissionTable :=
  ⟨admitted_iff, fun _ _ _ => exec_fetch_not_admitted⟩

/-- An idle agent has a step where it is live and a word is left (R160). -/
theorem enabled_of_idle {s : State} {e : EngineId} (hp : (s.engine e).phase = .idle) :
    s.enabled (.engine e) = true ↔ (s.engine e).live = true ∧ (s.engine e).cp < (s.engine e).prog.length := by
  simp [State.enabled, Engine.ready, hp]

/-- Settles O31: an illegal word never reaches a command, and a command's fetch checks in its own order. -/
theorem fetchChecks : Obligations.FetchChecks :=
  ⟨fun _ _ => enabled_of_idle, fun _ _ _ _ => engineStep_of_illegal, fun _ _ _ => exec_fetch⟩

end Sys2Proof.Safety

/-! # The registers CONFIGURE writes (42_poll_engine R161, R168) -/

namespace Sys2Proof.Safety

open Sys2Proof.Machine

/-! ## Steps that write none of them -/

/-- IER, LCR and the divisor latches stand as before, with the parameters they are read under (R168). -/
structure RegistersKept (s t : State) : Prop where
  ier : t.ier = s.ier
  lcr : t.lcr = s.lcr
  dll : t.dll = s.dll
  dlh : t.dlh = s.dlh
  par : t.par = s.par

section
variable {s t : State} {i : Instr}

theorem RegistersKept.refl (s : State) : RegistersKept s s := ⟨rfl, rfl, rfl, rfl, rfl⟩

/-- A command is one of the six of R85. -/
theorem opOf_of_isCommand (hi : isCommand i = true) : ∃ op, opOf i = some op := by
  cases i <;> simp only [isCommand, Bool.false_eq_true] at hi <;> exact ⟨_, rfl⟩

/-- An instruction whose command is CONFIGURE is one. -/
theorem configure_of_opOf (h : opOf i = some .configure) : ∃ wl st par baud, i = .configure wl st par baud := by
  cases i <;> cases h
  exact ⟨_, _, _, _, rfl⟩

/-- With DLAB = 0 every command but CONFIGURE leaves the registers (R168). -/
theorem command_registersKept (hi : isCommand i = true) (hne : opOf i ≠ some .configure) (hd : s.dlab = false)
    (h : exec i s = .next t) : RegistersKept s t := by
  cases i <;> simp only [isCommand, Bool.false_eq_true] at hi
  case configure => exact absurd rfl hne
  case writeByte b =>
    rcases execWriteByte_next h with ⟨_, _, rfl⟩ | ⟨_, _, ⟨_, rfl⟩ | ⟨_, rfl⟩⟩ | ⟨_, _, ⟨_, _, rfl⟩ | ⟨dlab, _⟩⟩
    case inr.inr.inr =>
      rw [hd] at dlab
      cases dlab
    all_goals constructor <;> simp
  case flush =>
    rcases execFlush_next h with ⟨_, _, rfl⟩ | ⟨_, _, ⟨_, rfl⟩ | ⟨_, rfl⟩⟩ <;> constructor <;> simp
  case readByte =>
    rcases execReadByte_next h with ⟨_, _, rfl⟩ | ⟨_, _, ⟨_, rfl⟩ | ⟨_, rfl⟩⟩ |
      ⟨_, _, ⟨_, c, q, _, rfl⟩ | ⟨dlab, _⟩⟩
    case inr.inr.inr =>
      rw [hd] at dlab
      cases dlab
    all_goals constructor <;> simp
  case release => rcases execRelease_next h with ⟨_, _, rfl⟩ | ⟨_, rfl⟩ <;> constructor <;> simp
  case split => rcases execSplit_next h with ⟨_, _, _, rfl⟩ | ⟨_, rfl⟩ <;> constructor <;> simp

/-- A line agent leaves the registers, the engines and the handle. -/
theorem lineStep_kept {b : Agent} (hb : ∀ e, b ≠ .engine e) (he : s.enabled b = true)
    (h : agentStep b s = .next t) : RegistersKept s t ∧ t.eng = s.eng ∧ t.hs = s.hs := by
  have same := RegistersKept.refl s
  cases b with
  | engine e => exact absurd rfl (hb e)
  | transmitter =>
    obtain ⟨_, ⟨_, _, rfl⟩ | ⟨_, _, _, _, rfl⟩⟩ := transmitterStep_cases he h <;> exact ⟨{ same with }, rfl, rfl⟩
  | receiver =>
    obtain ⟨_, ⟨_, _, _, rfl⟩ | ⟨_, rfl⟩⟩ := receiverStep_cases he h <;> exact ⟨{ same with }, rfl, rfl⟩

/-- A command of any engine agent but CONFIGURE leaves the registers, with DLAB = 0. -/
theorem engineStep_registersKept {e : EngineId} (hd : s.dlab = false) (h : engineStep e s = .next t) :
    (∃ wl st par baud, decodeCommand (s.engine e).words = .ok (.configure wl st par baud)) ∨ RegistersKept s t := by
  obtain ⟨i, hi, hx⟩ := engineStep_eq_next.1 h
  by_cases hop : opOf i = some .configure
  · obtain ⟨wl, st, par, baud, rfl⟩ := configure_of_opOf hop
    exact .inl ⟨wl, st, par, baud, hi⟩
  · have kept := command_registersKept (s := { s with cur := e }) (isCommand_of_decodeCommand hi) hop hd hx
    exact .inr { kept with }

end

/-- Settles O51: with DLAB = 0 a line agent and every command but CONFIGURE leave the registers. -/
theorem onlyConfigureWritesRegisters : Obligations.OnlyConfigureWritesRegisters := by
  intro s t h hport hd changed
  have not_kept : ¬ RegistersKept s t := fun ⟨ier, lcr, dll, dlh, _⟩ => by simp [ier, lcr, dll, dlh] at changed
  rcases step_next_cases h with ⟨rfl, _⟩ | ⟨_, _, _, rfl⟩ | ⟨req, _, _, hp, _, _⟩ | ⟨a, u, _, _, hc, hu, rfl⟩
  · exact absurd (.refl _) not_kept
  · exact absurd { RegistersKept.refl s with } not_kept
  · rw [hport] at hp
    cases hp
  · cases a with
    | engine e =>
      rcases engineStep_registersKept hd hu with ⟨wl, st, par, baud, hi⟩ | kept
      · exact ⟨e, wl, st, par, baud, hc, hi⟩
      · exact absurd { kept with } not_kept
    | transmitter => exact absurd { (lineStep_kept (by simp) (enabled_of_chosen hc) hu).1 with } not_kept
    | receiver => exact absurd { (lineStep_kept (by simp) (enabled_of_chosen hc) hu).1 with } not_kept

/-! ## What is known of the registers -/

section
variable {s t : State} {i : Instr}

/-- LCR as CONFIGURE leaves it has DLAB = 0 (R168). -/
theorem Configured.dlab (h : Configured s) : s.dlab = false := by
  obtain ⟨wl, st, par, hl⟩ := h.lcr
  rw [State.dlab, hl, lcrEncode_dlab]

theorem RegistersKept.configured_iff (h : RegistersKept s t) : Configured t ↔ Configured s := by
  obtain ⟨ier, lcr, dll, dlh, par⟩ := h
  constructor
  · rintro ⟨hi, hl, hv⟩
    exact ⟨by rwa [← ier], by rwa [← lcr], by rwa [State.div, ← dll, ← dlh, ← par]⟩
  · rintro ⟨hi, hl, hv⟩
    exact ⟨by rwa [ier], by rwa [lcr], by rwa [State.div, dll, dlh, par]⟩

/-- Outside CONFIGURE's phases after the gate reset, what is known of the registers is what a handle has. -/
theorem configureProgress_iff (h : afterGate s.eng.phase = false) :
    configureProgress s ↔ (s.hs ≠ .unbound → Configured s) := by
  unfold configureProgress
  split
  case h_11 => rfl
  all_goals simp_all [afterGate, beforeDll]

/-- With ENG and the handle as before, no register written is the invariant kept. -/
theorem RegisterInvariant.of_kept (h : RegisterInvariant s) (hk : RegistersKept s t) (eng : t.eng = s.eng)
    (hs : t.hs = s.hs) : RegisterInvariant t := by
  refine ⟨by rw [hk.par, h.noGuard], ?_⟩
  have progress := h.progress
  unfold configureProgress at progress ⊢
  simpa only [State.div, eng, hs, hk.ier, hk.lcr, hk.dll, hk.dlh, hk.par, hk.configured_iff] using progress

end
end Sys2Proof.Safety

namespace Sys2Proof.Safety

open Sys2Proof.Machine

/-! ## Without the busy guard every step keeps what is known of the registers (R168, R256) -/

/-- A 16-bit divisor is its two bytes, DLH's above DLL's (R24). -/
theorem divisor_bytes (d : Divisor) : d.extractLsb' 8 8 ++ d.extractLsb' 0 8 = d := by
  have whole := BitVec.extractLsb'_append_extractLsb'_eq_extractLsb' (x := d) (start₁ := 0) (len₁ := 8)
    (start₂ := 8) (len₂ := 8) rfl
  exact whole.trans BitVec.extractLsb'_eq_self

section
variable {s t : State} {i : Instr} {a : EngineId}

/-- In UNBOUND only CONFIGURE runs (R167). -/
theorem configure_of_mayRun_unbound (h : mayRun a .unbound i = true) : opOf i = some .configure := by
  cases i
  case configure => rfl
  all_goals cases a <;> cases h

section
variable (hI : RunInvariant s)
include hI

/-- After the gate reset no handle stands (R161). -/
theorem RunInvariant.unbound_of_afterGate (h : afterGate s.eng.phase = true) : s.hs = .unbound := by
  obtain ⟨i, _, hp, hr, _⟩ := hI.command .eng (ne_idle_of_afterGate h)
  obtain ⟨wl, st, par, baud, rfl⟩ := configure_of_afterGate hp h
  exact (mayRun_configure hr).2

/-- A command that answers a next state is one the handle admits, at its fetch and after it (R167). -/
theorem RunInvariant.mayRun_of_next (hd : decodeCommand (s.engine s.cur).words = .ok i) (h : exec i s = .next t) :
    mayRun s.cur s.hs i = true := by
  by_cases hp : s.self.phase = .idle
  · obtain ⟨op, hop⟩ := opOf_of_isCommand (isCommand_of_decodeCommand hd)
    rw [mayRun_eq_admitted hop]
    exact ((exec_fetch_eq_next hop hp).1 h).1
  · exact (hI.inside hd rfl hp).1

variable (hR : RegisterInvariant s)
include hR

/-- A handle has the registers CONFIGURE left (R168, R256). -/
theorem RunInvariant.configured (h : s.hs ≠ .unbound) : Configured s := by
  have outside : afterGate s.eng.phase = false := by
    by_contra hp
    exact h (hI.unbound_of_afterGate (by simpa using hp))
  exact (configureProgress_iff outside).1 hR.progress h

/-- A command of a handle leaves what CONFIGURE left. -/
theorem command_registerInvariant (hd : decodeCommand (s.engine s.cur).words = .ok i)
    (hne : opOf i ≠ some .configure) (h : exec i s = .next t) : RegisterInvariant t := by
  have hi := isCommand_of_decodeCommand hd
  have hr := hI.mayRun_of_next hd h
  have bound : s.hs ≠ .unbound := fun hs => hne (configure_of_mayRun_unbound (hs ▸ hr))
  have registers := hI.configured hR bound
  have kept := command_registersKept hi hne registers.dlab h
  have hT := command_runInvariant hI hd h
  refine ⟨by rw [kept.par, hR.noGuard], (configureProgress_iff ?_).2 fun _ => kept.configured_iff.2 registers⟩
  by_contra hp
  have after : afterGate t.eng.phase = true := by simpa using hp
  have unbound := hT.unbound_of_afterGate after
  cases command_gateHandleMove hi h with
  | stays _ hs => exact bound (hs ▸ unbound)
  | opens hc | binds hc =>
    obtain ⟨wl, st, par, baud, rfl⟩ := hc
    exact hne rfl
  | releases _ _ gate => cases gate.symm.trans (hT.gateConfigure after)
  | splits _ _ _ hs => cases hs.symm.trans unbound

/-- CONFIGURE's reads and writes take what is known of the registers from one phase to the next (R161). -/
theorem configure_progress {wl : WordLength} {st : StopBits} {par : Parity} {baud : Word} (hcur : s.cur = .eng)
    (hs : s.hs = .unbound) (h : execConfigure wl st par baud s = .next t) : configureProgress t := by
  obtain ⟨guard, progress⟩ := hR
  have made : ¬(s.par.lcrBusyGuard && s.busy) = true := by simp [guard]
  have gateOn := hI.gateConfigure
  have dlab0 (h : s.lcr = 0) : s.dlab = false := by simp [State.dlab, h, bitSet]
  have dlab1 (h : s.lcr = 0x80) : s.dlab = true := by simp [State.dlab, h, bitSet]
  have self : s.self = s.eng := by rw [State.self_eq, hcur]; rfl
  unfold configureProgress at progress
  cases hp : s.eng.phase <;> simp only [hp] at progress gateOn <;> rw [← self] at hp
  case idle =>
    obtain ⟨_, _, rfl⟩ := (exec_fetch_eq_next (i := .configure wl st par baud) rfl hp).1 h
    refine (configureProgress_iff (by simp [hcur]; rfl)).2 fun bound => absurd hs ?_
    simpa using bound
  case cfGate =>
    rw [execConfigure_gate _ _ _ _ hp] at h
    cases h
    simp [configureProgress, hcur]
  case cfIerRd =>
    obtain ⟨ier, lcr⟩ := progress
    rw [execConfigure_ierRd _ _ _ _ (gateOn rfl) hp (dlab0 lcr)] at h
    cases h
    simp [configureProgress, hcur, ier, lcr]
  case cfIerWr =>
    obtain ⟨ier, lcr, t0⟩ := progress
    rw [execConfigure_ierWr _ _ _ _ (gateOn rfl) hp (dlab0 lcr)] at h
    cases h
    simp [configureProgress, hcur, lcr, t0]
  case cfDiv =>
    obtain ⟨ier, lcr⟩ := progress
    simp only [execConfigure, hp, withDivisor_eq_next, Host.Outcome.next.injEq] at h
    obtain ⟨d, hd, rfl⟩ := h
    simpa [configureProgress, hcur, ier, lcr] using ⟨_, hd⟩
  case cfLcrRd1 =>
    obtain ⟨ier, lcr, hd⟩ := progress
    rw [execConfigure_lcrRd1 _ _ _ _ (gateOn rfl) hp] at h
    cases h
    simpa [configureProgress, hcur, ier, lcr] using hd
  case cfLcrSet =>
    obtain ⟨ier, lcr, t0, hd⟩ := progress
    rw [execConfigure_lcrSet _ _ _ _ (gateOn rfl) hp, if_neg made] at h
    cases h
    simpa [configureProgress, hcur, ier, t0] using hd
  case cfDll =>
    obtain ⟨ier, lcr, t0, hd⟩ := progress
    rw [execConfigure_dll _ _ _ _ (gateOn rfl) hp (dlab1 lcr), if_neg made] at h
    cases h
    simpa [configureProgress, hcur, ier, lcr, t0] using hd
  case cfDlh =>
    obtain ⟨ier, lcr, t0, dll, hd⟩ := progress
    rw [execConfigure_dlh _ _ _ _ (gateOn rfl) hp (dlab1 lcr), if_neg made] at h
    cases h
    simpa [configureProgress, hcur, ier, lcr, t0, State.div, dll, divisor_bytes] using hd
  case cfLcrClr =>
    obtain ⟨ier, lcr, t0, div, hd⟩ := progress
    rw [execConfigure_lcrClr _ _ _ _ (gateOn rfl) hp, if_neg made] at h
    cases h
    rw [← div] at hd
    simpa [configureProgress, hcur, ier, t0, State.div] using hd
  case cfLcrRd2 =>
    obtain ⟨ier, lcr, hd⟩ := progress
    rw [execConfigure_lcrRd2 _ _ _ _ (gateOn rfl) hp] at h
    cases h
    simpa [configureProgress, hcur, ier, lcr, State.div] using hd
  case cfLcrWr =>
    obtain ⟨ier, lcr, t0, hd⟩ := progress
    rw [execConfigure_lcrWr _ _ _ _ (gateOn rfl) hp, if_neg made] at h
    cases h
    refine (configureProgress_iff (by simp [hcur]; rfl)).2 fun _ => ⟨?_, ⟨wl, st, par, ?_⟩, ?_⟩
    · simpa using ier
    · simp [hcur, t0]
    · simpa [State.div] using hd
  all_goals
    simp only [execConfigure, hp, wrongPhase] at h
    cases h

/-- CONFIGURE keeps the registers as its writes so far make them. -/
theorem configure_registerInvariant {wl : WordLength} {st : StopBits} {par : Parity} {baud : Word}
    (hd : decodeCommand (s.engine s.cur).words = .ok (.configure wl st par baud))
    (h : exec (.configure wl st par baud) s = .next t) : RegisterInvariant t := by
  obtain ⟨hcur, hs⟩ := mayRun_configure (hI.mayRun_of_next hd h)
  exact ⟨by rw [(execConfigure_frame h).par, hR.noGuard], configure_progress hI hR hcur hs h⟩

/-- A step of an agent keeps what is known of the registers. -/
theorem agentStep_registerInvariant {b : Agent} (he : s.enabled b = true) (h : agentStep b s = .next t) :
    RegisterInvariant t := by
  have line (hb : ∀ e, b ≠ .engine e) : RegisterInvariant t := by
    obtain ⟨kept, eng, hs⟩ := lineStep_kept hb he h
    exact hR.of_kept kept eng hs
  cases b with
  | engine e =>
    obtain ⟨i, hd, hx⟩ := engineStep_eq_next.1 h
    have hI' := hI.withCur e
    have hR' : RegisterInvariant { s with cur := e } := hR.of_kept { RegistersKept.refl s with } rfl rfl
    by_cases hop : opOf i = some .configure
    · obtain ⟨wl, st, par, baud, rfl⟩ := configure_of_opOf hop
      exact configure_registerInvariant hI' hR' hd hx
    · exact command_registerInvariant hI' hR' hd hop hx
  | transmitter => exact line (by simp)
  | receiver => exact line (by simp)

end
end

/-- Settles O57: the line agents write no register, a handle's commands find DLAB = 0 and write none, and CONFIGURE,
alone in UNBOUND, finds at each phase what its writes so far have left. -/
theorem registerInvariantKept : Obligations.RegisterInvariantKept := by
  intro s t hI hR h
  rcases step_next_cases h with ⟨rfl, _⟩ | ⟨_, _, _, rfl⟩ | ⟨req, _, _, hport, _, _⟩ | ⟨a, u, _, _, hc, hu, rfl⟩
  · exact hR
  · exact hR.of_kept { RegistersKept.refl s with } rfl rfl
  · rw [hI.noPort] at hport
    cases hport
  · exact (agentStep_registerInvariant hI hR (enabled_of_chosen hc) hu).of_kept
      { RegistersKept.refl u with } rfl rfl

end Sys2Proof.Safety

/-! # The commands, phase by phase (42_poll_engine R161 to R166) -/

namespace Sys2Proof.Machine

/-! ## Guarded writes, field by field (R103, R107, R111) -/

section
variable (c : Bool) (s : State) (b : Byte)

theorem guarded_lcr : (if c then s else { s with lcr := b }) = { s with lcr := if c then s.lcr else b } := by
  cases c <;> rfl

theorem guarded_dll : (if c then s else { s with dll := b }) = { s with dll := if c then s.dll else b } := by
  cases c <;> rfl

theorem guarded_dlh : (if c then s else { s with dlh := b }) = { s with dlh := if c then s.dlh else b } := by
  cases c <;> rfl

end

/-! ## CONFIGURE where DLAB turns an access to another register, or none is made (R161, R262) -/

section
variable {s : State} (wl : WordLength) (st : StopBits) (par : Parity) (baud : Word)

theorem execConfigure_div (hp : s.self.phase = .cfDiv) {d : Divisor} (hd : divisor s.par.clkHz baud.toNat = .ok d) :
    execConfigure wl st par baud s = .next ((s.setD d).toPhase .cfLcrRd1) := by
  simp only [execConfigure, hp, withDivisor, currentFrequency, hd]

variable (hg : s.gate = .on)
include hg

/-- CF_IER_RD with either DLAB: it reads DLH or IER. -/
theorem execConfigure_read_04 (hp : s.self.phase = .cfIerRd) :
    execConfigure wl st par baud s =
      .next ((s.drew.setT (s.free.extractLsb' 8 24 ++ (if s.dlab then s.dlh else s.ier))).toPhase .cfIerWr) := by
  cases hd : s.dlab
  case false => exact execConfigure_ierRd wl st par baud hg hp hd
  case true =>
    simp only [execConfigure, hp, readT, memRead_dlh hg hd, andThen_next]
    rfl

theorem execConfigure_ierWr_dlab (hp : s.self.phase = .cfIerWr) (hd : s.dlab = true) :
    execConfigure wl st par baud s =
      .next (State.toPhase (if s.par.lcrBusyGuard && s.busy then s
        else { s with dlh := lowByte s.self.t &&& 0xF0#8 }) .cfDiv) := by
  simp only [execConfigure, hp, writeReg, memWrite_dlh hg _ hd, andThen_next]

theorem execConfigure_dll_thr (hp : s.self.phase = .cfDll) (hd : s.dlab = false)
    (hq : s.txq.length ≠ s.par.txDepth) :
    execConfigure wl st par baud s =
      .next (State.toPhase { s with txq := s.txq ++ [s.self.d.extractLsb' 0 8] } .cfDlh) := by
  simp only [execConfigure, hp, writeReg, memWrite_thr hg _ hd hq, andThen_next]

theorem execConfigure_dll_full (hp : s.self.phase = .cfDll) (hd : s.dlab = false)
    (hq : s.txq.length = s.par.txDepth) :
    execConfigure wl st par baud s = .fault (.txOverflow (s.self.d.extractLsb' 0 8)) := by
  simp only [execConfigure, hp, writeReg, memWrite_thr_full hg _ hd hq, andThen_fault]

theorem execConfigure_dlh_ier (hp : s.self.phase = .cfDlh) (hd : s.dlab = false) :
    execConfigure wl st par baud s =
      .next (State.toPhase { s with ier := s.self.d.extractLsb' 8 8 } .cfLcrClr) := by
  simp only [execConfigure, hp, writeReg, memWrite_ier hg _ hd, andThen_next]

end

/-- Settles O32: each phase is its one access, with DLAB and the busy guard as that access finds them. -/
theorem configurePhases : Obligations.ConfigurePhases := by
  intro wl st par baud s
  have lcr := fun b => guarded_lcr (s.par.lcrBusyGuard && s.busy) s b
  have dll := fun b => guarded_dll (s.par.lcrBusyGuard && s.busy) s b
  have dlh := fun b => guarded_dlh (s.par.lcrBusyGuard && s.busy) s b
  refine ⟨execConfigure_gate wl st par baud, fun hp _ => execConfigure_div wl st par baud hp, fun hg => ?_⟩
  refine ⟨?_, ?_, ?_, ?_, ?_, ?_, ?_, ?_, ?_, ?_, ?_, ?_, ?_⟩
  · exact execConfigure_read_04 wl st par baud hg
  · exact execConfigure_ierWr wl st par baud hg
  · exact fun hp hd => dlh _ ▸ execConfigure_ierWr_dlab wl st par baud hg hp hd
  · exact execConfigure_lcrRd1 wl st par baud hg
  · exact fun hp => lcr _ ▸ execConfigure_lcrSet wl st par baud hg hp
  · exact fun hp hd => dll _ ▸ execConfigure_dll wl st par baud hg hp hd
  · exact execConfigure_dll_thr wl st par baud hg
  · exact execConfigure_dll_full wl st par baud hg
  · exact fun hp hd => dlh _ ▸ execConfigure_dlh wl st par baud hg hp hd
  · exact execConfigure_dlh_ier wl st par baud hg
  · exact fun hp => lcr _ ▸ execConfigure_lcrClr wl st par baud hg hp
  · exact execConfigure_lcrRd2 wl st par baud hg
  · intro hp
    have h := execConfigure_lcrWr wl st par baud hg hp
    rw [guarded_lcr] at h
    exact h

end Sys2Proof.Machine

namespace Sys2Proof.Machine

/-! ## The data commands (R162 to R164) -/

section
variable {s : State}

/-- With TX_POLL = BUSY room is an idle transmitter and no character arriving (R31, R162). -/
theorem showsRoom_busy (h : s.par.txPoll = .busy) :
    s.showsRoom = decide (s.txq = [] ∧ s.txsh = none ∧ s.rxActive = false) := by
  rw [Bool.eq_iff_iff]
  simp [State.showsRoom, h, State.busy, and_assoc]

/-- With TX_POLL = TFNF room is a place in the transmit FIFO (R31, R162). -/
theorem showsRoom_tfnf (h : s.par.txPoll = .tfnf) : s.showsRoom = decide (s.txq.length < s.par.txDepth) := by
  rw [State.showsRoom, h, State.tfnf]

variable (hg : s.gate = .on)
include hg

theorem execWriteByte_push_full (b : Byte) (hp : s.self.phase = .wbPush) (hd : s.dlab = false)
    (hq : s.txq.length = s.par.txDepth) : execWriteByte b s = .fault (.txOverflow b) := by
  simp only [execWriteByte, hp, memWrite_thr_full hg b hd hq, andThen_fault]

/-- With DLAB = 1 the push reaches DLL, and the busy guard may lose it (R258). -/
theorem execWriteByte_push_dlab (b : Byte) (hp : s.self.phase = .wbPush) (hd : s.dlab = true) :
    execWriteByte b s =
      .next (State.complete { s with dll := if s.par.lcrBusyGuard && s.busy then s.dll else b } 1) := by
  simp only [execWriteByte, hp, memWrite_dll hg b hd, guarded_dll, andThen_next]

theorem execReadByte_pop_empty (hp : s.self.phase = .rbPop) (hd : s.dlab = false) (hq : s.rxq = []) :
    execReadByte s = .fault (.rxUnderflow 0x00#7) := by
  simp only [execReadByte, hp, memRead_rbr_empty hg hd hq, andThen_fault]

/-- With DLAB = 1 the pop reads DLL (R258). -/
theorem execReadByte_pop_dlab (hp : s.self.phase = .rbPop) (hd : s.dlab = true) :
    execReadByte s = .next ((s.drew.deliverByte s.dll).complete 1) := by
  simp only [execReadByte, hp, memRead_dll hg hd, andThen_next, lowByte_append]

end

/-- Settles O35: the poll looks at the bit TX_POLL names, and the push goes where DLAB says. -/
theorem writeByteRule : Obligations.WriteByteRule := by
  intro b s
  refine ⟨fun hp ha => (Safety.exec_fetch_eq_next rfl hp).2 ⟨ha, rfl, rfl⟩, fun hg => ⟨fun hp => ?_, fun hp hd => ?_,
    execWriteByte_push_dlab hg b⟩⟩
  · refine (execWriteByte_poll hg b hp).trans ?_
    cases ht : s.par.txPoll
    case busy => rw [showsRoom_busy ht]
    case tfnf => rw [showsRoom_tfnf ht]
  · exact ⟨execWriteByte_push hg b hp hd, execWriteByte_push_full hg b hp hd⟩

/-- Settles O36: the poll looks at TFE alone. -/
theorem flushRule : Obligations.FlushRule := by
  refine fun s => ⟨fun hp ha => (Safety.exec_fetch_eq_next rfl hp).2 ⟨ha, rfl, rfl⟩,
    fun hg hp => ⟨fun hq => ?_, fun hq => ?_⟩⟩
  · exact (execFlush_poll hg hp).trans (by rw [if_pos (by simp [State.tfe, hq])])
  · exact (execFlush_poll hg hp).trans (by rw [if_neg (by simp [State.tfe, hq])])

/-- Settles O37: the poll looks at DR, and the pop takes from where DLAB says. -/
theorem readByteRule : Obligations.ReadByteRule := by
  refine fun s => ⟨fun hp ha => (Safety.exec_fetch_eq_next rfl hp).2 ⟨ha, rfl, rfl⟩,
    fun hg => ⟨fun hp => ⟨fun hq => ?_, fun hq => ?_⟩,
      fun hp hd => ⟨fun c q => execReadByte_pop hg hp hd, execReadByte_pop_empty hg hp hd⟩,
      execReadByte_pop_dlab hg⟩⟩
  · exact (execReadByte_poll hg hp).trans (by rw [if_pos (by simp [State.dr, hq])])
  · exact (execReadByte_poll hg hp).trans (by rw [if_neg (by simp [State.dr, hq])])

/-! ## RELEASE and SPLIT (R165, R166) -/

section
variable {s : State}

theorem execRelease_gate (hp : s.self.phase = .rlGate) :
    execRelease s = .next (State.complete { s with gate := .off, hs := .unbound } 1) := by
  simp only [execRelease, hp, gateFree_own]

theorem execSplit_do (hcur : s.cur = .eng) (hp : s.self.phase = .spDo) :
    execSplit s = .next { s with
      hs := .split
      eng := { s.eng with cp := s.eng.cp + 1, phase := .idle, live := false }
      engTx := { s.engTx with live := true }
      engRx := { s.engRx with live := true } } := by
  simp only [execSplit, hp, State.setLive_eq, State.complete_eq, hcur]
  rfl

end

/-- Settles O38: RL_GATE looks at no FIFO. -/
theorem releaseRule : Obligations.ReleaseRule := fun _ =>
  ⟨fun hp ha => (Safety.exec_fetch_eq_next rfl hp).2 ⟨ha, rfl, rfl⟩, execRelease_gate⟩

/-- Settles O39: the fetch checks the last word after the admission, and SP_DO is ENG's. -/
theorem splitRule : Obligations.SplitRule := by
  refine fun s => ⟨fun hp ha => ⟨fun last => ?_, fun more => ?_⟩, execSplit_do⟩
  · exact (Safety.exec_fetch_eq_next rfl hp).2 ⟨ha, if_neg (by omega), rfl⟩
  · exact Safety.exec_fetch_refused rfl hp ha (if_pos more)

/-! ## What the data commands leave (R168, R258) -/

section
variable (s : State) (e : Engine)

/-- What a sending command may change is read off the state after it. -/
theorem setSelf_sent : s.setSelf e =
    State.setSelf { s with txq := (s.setSelf e).txq, dll := (s.setSelf e).dll, draws := (s.setSelf e).draws } e := by
  simp [State.setSelf]

/-- What a receiving command may change is read off the state after it. -/
theorem setSelf_received : s.setSelf e =
    State.setSelf { s with rxq := (s.setSelf e).rxq, draws := (s.setSelf e).draws } e := by
  simp [State.setSelf]

/-- What a poll may change beside the agent is read off the state after it. -/
theorem setSelf_polled : s.setSelf e = State.setSelf { s with draws := (s.setSelf e).draws } e := by
  simp [State.setSelf]

/-- A delivery that completes its command is one update of the agent. -/
theorem deliverByte_complete (c : Byte) : (s.deliverByte c).complete 1 = s.setSelf
    { s.self with cp := s.self.cp + 1, phase := .idle, out := s.self.out ++ [c] } := by
  simp [State.setSelf]

theorem setSelf_self : s.setSelf s.self = s := State.setEngine_engine s s.cur

end

/-- WRITE_BYTE leaves all but its agent, the transmit FIFO, the draws and, with DLAB = 1, DLL. -/
theorem writeByte_frame {b : Byte} {s t : State} (h : exec (.writeByte b) s = .next t) : ∃ e : Engine,
    t = State.setSelf { s with txq := t.txq, dll := t.dll, draws := t.draws } e ∧
    e = { s.self with cp := e.cp, phase := e.phase } ∧
    (t.txq = s.txq ∨ t.txq = s.txq ++ [b]) ∧ (s.dlab = false → t.dll = s.dll) := by
  rcases execWriteByte_next h with ⟨_, _, rfl⟩ | ⟨_, _, ⟨_, rfl⟩ | ⟨_, rfl⟩⟩ | ⟨_, _, ⟨_, _, rfl⟩ | ⟨dlab, rfl⟩⟩
  · exact ⟨_, setSelf_sent s _, rfl, by simp, by simp⟩
  · exact ⟨_, setSelf_sent s.drew _, rfl, by simp, by simp⟩
  · exact ⟨_, (setSelf_self s.drew).symm, rfl, by simp, by simp⟩
  · exact ⟨_, setSelf_sent { s with txq := s.txq ++ [b] } _, rfl, by simp, by simp⟩
  · rw [guarded_dll]
    exact ⟨_, setSelf_sent { s with dll := if s.par.lcrBusyGuard && s.busy then s.dll else b } _, rfl, by simp,
      by simp [dlab]⟩

/-- FLUSH leaves all but its agent and the draws. -/
theorem flush_frame {s t : State} (h : exec .flush s = .next t) : ∃ e : Engine,
    t = State.setSelf { s with draws := t.draws } e ∧ e = { s.self with cp := e.cp, phase := e.phase } := by
  rcases execFlush_next h with ⟨_, _, rfl⟩ | ⟨_, _, ⟨_, rfl⟩ | ⟨_, rfl⟩⟩
  · exact ⟨_, setSelf_polled s _, rfl⟩
  · exact ⟨_, setSelf_polled s.drew _, rfl⟩
  · exact ⟨_, (setSelf_self s.drew).symm, rfl⟩

/-- READ_BYTE leaves all but its agent, the receive FIFO, whose head it delivers, and the draws. -/
theorem readByte_frame {s t : State} (h : exec .readByte s = .next t) : ∃ e : Engine,
    t = State.setSelf { s with rxq := t.rxq, draws := t.draws } e ∧
    e = { s.self with cp := e.cp, phase := e.phase, out := e.out } ∧
    (t.rxq = s.rxq ∨ ∃ c, s.rxq = c :: t.rxq ∧ e.out = s.self.out ++ [c]) := by
  rcases execReadByte_next h with ⟨_, _, rfl⟩ | ⟨_, _, ⟨_, rfl⟩ | ⟨_, rfl⟩⟩ | ⟨_, _, ⟨_, c, q, hq, rfl⟩ | ⟨_, rfl⟩⟩
  · exact ⟨_, setSelf_received s _, rfl, by simp⟩
  · exact ⟨_, setSelf_received s.drew _, rfl, by simp⟩
  · exact ⟨_, (setSelf_self s.drew).symm, rfl, by simp⟩
  · rw [deliverByte_complete]
    exact ⟨_, setSelf_received (State.drew { s with rxq := q }) _, rfl,
      .inr ⟨c, by simpa [State.setSelf] using hq, rfl⟩⟩
  · rw [deliverByte_complete]
    exact ⟨_, setSelf_received s.drew _, rfl, by simp [State.setSelf]⟩

/-- Settles O40, from what each command's step can be. -/
theorem commandFrame : Obligations.CommandFrame :=
  ⟨fun _ _ _ => writeByte_frame, fun _ _ => flush_frame, fun _ _ => readByte_frame⟩

/-! ## The chosen engine agent's step (R160) -/

/-- Settles O43: the chosen agent's step is the step, and an engine's runs the command at its pointer. -/
theorem stepRunsCommand : Obligations.StepRunsCommand := by
  intro e i s hm hp hc hi
  have own : engineStep e s = exec i { s with cur := e } := by rw [engineStep, hi]
  have taken : Safety.stepAgent s = some (.engine e) := by simp [Safety.stepAgent, hm, hp, hc]
  rw [(step_of_stepAgent taken).2, agentStep, own]
  cases exec i { s with cur := e } <;> rfl

end Sys2Proof.Machine

namespace Sys2Proof.Safety

open Sys2Proof.Machine

/-! ## Final states (R173) -/

/-- A done agent is not live, or idle past its last word. -/
theorem engineDone_iff (e : Engine) :
    engineDone e = true ↔ (e.live = true → e.phase = .idle ∧ e.prog.length ≤ e.cp) := by
  cases h : e.live <;> simp [engineDone, h]

/-- An engine agent that is done has no step. -/
theorem not_ready_of_engineDone {e : Engine} (h : engineDone e = true) : e.ready = false := by
  cases hl : e.live
  · simp [Engine.ready, hl]
  · obtain ⟨hp, hc⟩ := (engineDone_iff e).1 h hl
    simp [Engine.ready, hp, hc]

/-- A final state has every engine agent done and no mark. -/
theorem final_iff (s : State) :
    final s = true ↔ (∀ e, engineDone (s.engine e) = true) ∧ s.faults = [] ∧ s.refused = [] := by
  have engines : (∀ e, engineDone (s.engine e) = true) ↔
      engineDone s.eng = true ∧ engineDone s.engTx = true ∧ engineDone s.engRx = true :=
    ⟨fun h => ⟨h .eng, h .engTx, h .engRx⟩, fun ⟨h, k, l⟩ e => by cases e <;> assumption⟩
  rw [engines]
  simp [final, and_assoc]

/-- Settles O47, agent by agent: one that is done is not live or idle past its last word, and has no step. -/
theorem finalStates : Obligations.FinalStates := by
  refine fun s => ⟨?_, fun h e => not_ready_of_engineDone (((final_iff s).1 h).1 e)⟩
  rw [final_iff]
  simp only [engineDone_iff]

end Sys2Proof.Safety

/-! # The halves after SPLIT (42_poll_engine R169) -/

namespace Sys2Proof.Safety

open Sys2Proof.Machine

/-- A state with another receiving half: ENG_RX, the receive FIFO and, being shared, `cur` and the draws. -/
def withReceiver (s : State) (c : EngineId) (g : Engine) (r : List Byte) (n : Nat) : State :=
  { s with cur := c, engRx := g, rxq := r, draws := n }

/-- A state with another sending half: ENG_TX, the transmit FIFO and, being shared, `cur` and the draws. -/
def withSender (s : State) (c : EngineId) (f : Engine) (q : List Byte) (n : Nat) : State :=
  { s with cur := c, engTx := f, txq := q, draws := n }

/-- ENG_TX's step is the same whatever the receiving half is: it leaves that half, makes `f` and `q` of its own and
takes `k` draws. -/
def SendsAlike (i : Instr) (s : State) (f : Engine) (q : List Byte) (k : Nat) : Prop :=
  ∀ g r n, exec i (withReceiver s .engTx g r n) = .next (withSender (withReceiver s .engTx g r n) .engTx f q (n + k))

/-- ENG_RX's step is the same whatever the sending half is. -/
def ReceivesAlike (i : Instr) (s : State) (g : Engine) (r : List Byte) (k : Nat) : Prop :=
  ∀ f q n, exec i (withSender s .engRx f q n) = .next (withReceiver (withSender s .engRx f q n) .engRx g r (n + k))

section
variable {s t : State} {e : EngineId} {i : Instr}

/-- A fetch looks at the agent's own record and the handle. -/
theorem fetch_sendsAlike {op : CommandOp} (hop : opOf i = some op) (hp : s.engTx.phase = .idle)
    (h : exec i { s with cur := .engTx } = .next t) :
    SendsAlike i s { s.engTx with phase := firstPhase op } s.txq 0 := by
  obtain ⟨allowed, check, _⟩ := (exec_fetch_eq_next (s := { s with cur := .engTx }) hop hp).1 h
  exact fun g r n => (exec_fetch_eq_next (s := withReceiver s .engTx g r n) hop hp).2 ⟨allowed, check, rfl⟩

theorem fetch_receivesAlike {op : CommandOp} (hop : opOf i = some op) (hp : s.engRx.phase = .idle)
    (h : exec i { s with cur := .engRx } = .next t) :
    ReceivesAlike i s { s.engRx with phase := firstPhase op } s.rxq 0 := by
  obtain ⟨allowed, check, _⟩ := (exec_fetch_eq_next (s := { s with cur := .engRx }) hop hp).1 h
  exact fun f q n => (exec_fetch_eq_next (s := withSender s .engRx f q n) hop hp).2 ⟨allowed, check, rfl⟩

section
variable (hg : s.gate = .on)
include hg

/-- FLUSH looks at the transmit FIFO (R163). -/
theorem flush_sendsAlike (h : exec .flush { s with cur := .engTx } = .next t) :
    ∃ f q k, SendsAlike .flush s f q k := by
  rcases execFlush_next h with ⟨hp, _⟩ | ⟨hp, _, ⟨empty, _⟩ | ⟨more, _⟩⟩
  · exact ⟨_, _, _, fetch_sendsAlike rfl hp h⟩
  · exact ⟨{ s.engTx with cp := s.engTx.cp + 1, phase := .idle }, s.txq, 1, fun g r n =>
      (execFlush_poll (s := withReceiver s .engTx g r n) hg hp).trans (congrArg _ (if_pos empty))⟩
  · exact ⟨s.engTx, s.txq, 1, fun g r n =>
      (execFlush_poll (s := withReceiver s .engTx g r n) hg hp).trans
        (congrArg _ (if_neg (Bool.eq_false_iff.1 more)))⟩

variable (hd : s.dlab = false)
include hd

/-- WRITE_BYTE looks at the transmitter's status and pushes into the transmit FIFO (R162). -/
theorem writeByte_sendsAlike {b : Byte} (h : exec (.writeByte b) { s with cur := .engTx } = .next t) :
    ∃ f q k, SendsAlike (.writeByte b) s f q k := by
  rcases execWriteByte_next h with ⟨hp, _⟩ | ⟨hp, _, ⟨room, _⟩ | ⟨full, _⟩⟩ | ⟨hp, _, ⟨_, room, _⟩ | ⟨dlab, _⟩⟩
  · exact ⟨_, _, _, fetch_sendsAlike rfl hp h⟩
  · exact ⟨{ s.engTx with phase := .wbPush }, s.txq, 1, fun g r n =>
      (execWriteByte_poll (s := withReceiver s .engTx g r n) hg b hp).trans (congrArg _ (if_pos room))⟩
  · exact ⟨s.engTx, s.txq, 1, fun g r n =>
      (execWriteByte_poll (s := withReceiver s .engTx g r n) hg b hp).trans
        (congrArg _ (if_neg (Bool.eq_false_iff.1 full)))⟩
  · exact ⟨{ s.engTx with cp := s.engTx.cp + 1, phase := .idle }, s.txq ++ [b], 0, fun g r n =>
      execWriteByte_push (s := withReceiver s .engTx g r n) hg b hp hd room⟩
  · cases hd.symm.trans dlab

/-- READ_BYTE looks at the receive FIFO and pops it (R164). -/
theorem readByte_receivesAlike (h : exec .readByte { s with cur := .engRx } = .next t) :
    ∃ g r k, ReceivesAlike .readByte s g r k := by
  rcases execReadByte_next h with ⟨hp, _⟩ | ⟨hp, _, ⟨data, _⟩ | ⟨dry, _⟩⟩ | ⟨hp, _, ⟨_, c, r, hr, _⟩ | ⟨dlab, _⟩⟩
  · exact ⟨_, _, _, fetch_receivesAlike rfl hp h⟩
  · exact ⟨{ s.engRx with phase := .rbPop }, s.rxq, 1, fun f q n =>
      (execReadByte_poll (s := withSender s .engRx f q n) hg hp).trans (congrArg _ (if_pos data))⟩
  · exact ⟨s.engRx, s.rxq, 1, fun f q n =>
      (execReadByte_poll (s := withSender s .engRx f q n) hg hp).trans
        (congrArg _ (if_neg (Bool.eq_false_iff.1 dry)))⟩
  · exact ⟨{ s.engRx with cp := s.engRx.cp + 1, phase := .idle, out := s.engRx.out ++ [c] }, r, 1, fun f q n =>
      execReadByte_pop (s := withSender s .engRx f q n) hg hp hd hr⟩
  · cases hd.symm.trans dlab

end

/-! ## A step of either half -/

/-- What the halves need of a state: a run's, in SPLIT, DLAB = 0. -/
structure Halves (s : State) : Prop where
  run : RunInvariant s
  split : s.hs = .split
  dlab : s.dlab = false

theorem Halves.gate (h : Halves s) : s.gate = .on := h.run.gateHandle (by simp [h.split])

/-- A step of an engine agent keeps the invariant of a run. -/
theorem engineStep_runInvariant (hI : RunInvariant s) (h : engineStep e s = .next t) : RunInvariant t := by
  obtain ⟨i, hd, hx⟩ := engineStep_eq_next.1 h
  exact command_runInvariant (hI.withCur e) hd hx

/-- ENG_TX's step from whatever receiving half: one function of the sending half. -/
theorem Halves.engTx_step (hs : Halves s) (h : engineStep .engTx s = .next t) : ∃ f q k, ∀ c g r n,
    engineStep .engTx (withReceiver s c g r n) = .next (withSender (withReceiver s c g r n) .engTx f q (n + k)) := by
  obtain ⟨i, hi, hx⟩ := engineStep_eq_next.1 h
  have alike : ∃ f q k, SendsAlike i s f q k := by
    rcases mayRun_cases ((hs.run.withCur .engTx).mayRun_of_next hi hx) with ⟨he, _⟩ | ⟨_, _, rfl | ⟨b, rfl⟩⟩ | ⟨he, _⟩
    · cases he
    · exact flush_sendsAlike hs.gate hx
    · exact writeByte_sendsAlike hs.gate hs.dlab hx
    · cases he
  obtain ⟨f, q, k, same⟩ := alike
  exact ⟨f, q, k, fun c g r n => engineStep_eq_next.2 ⟨i, hi, same g r n⟩⟩

/-- ENG_RX's step from whatever sending half: one function of the receiving half. -/
theorem Halves.engRx_step (hs : Halves s) (h : engineStep .engRx s = .next t) : ∃ g r k, ∀ c f q n,
    engineStep .engRx (withSender s c f q n) = .next (withReceiver (withSender s c f q n) .engRx g r (n + k)) := by
  obtain ⟨i, hi, hx⟩ := engineStep_eq_next.1 h
  have alike : ∃ g r k, ReceivesAlike i s g r k := by
    rcases mayRun_cases ((hs.run.withCur .engRx).mayRun_of_next hi hx) with ⟨he, _⟩ | ⟨he, _⟩ | ⟨_, _, rfl⟩
    · cases he
    · cases he
    · exact readByte_receivesAlike hs.gate hs.dlab hx
  obtain ⟨g, r, k, same⟩ := alike
  exact ⟨g, r, k, fun c f q n => engineStep_eq_next.2 ⟨i, hi, same f q n⟩⟩

end

/-- Settles O59: each half's step is a function of its own half, so the two can be taken in either order; the draws
they share are only counted. -/
theorem halvesCommute : Obligations.HalvesCommute := by
  intro s hI split dlab
  have hs : Halves s := ⟨hI, split, dlab⟩
  constructor
  · intro a b ha hb
    obtain ⟨f, q, k, tx⟩ := hs.engTx_step ha
    cases ha.symm.trans (tx s.cur s.engRx s.rxq s.draws)
    obtain ⟨g, r, m, rx⟩ := Halves.engRx_step ⟨engineStep_runInvariant hI ha, split, dlab⟩ hb
    cases hb.symm.trans (rx .engTx f q (s.draws + k))
    refine ⟨_, _, rx s.cur s.engTx s.txq s.draws, tx .engRx g r (s.draws + m), ?_⟩
    simp only [SameUpToCur, withReceiver, withSender, Nat.add_right_comm s.draws k m]
  · intro a b ha hb
    obtain ⟨g, r, k, rx⟩ := hs.engRx_step ha
    cases ha.symm.trans (rx s.cur s.engTx s.txq s.draws)
    obtain ⟨f, q, m, tx⟩ := Halves.engTx_step ⟨engineStep_runInvariant hI ha, split, dlab⟩ hb
    cases hb.symm.trans (tx .engRx g r (s.draws + k))
    refine ⟨_, _, tx s.cur s.engRx s.rxq s.draws, rx .engTx f q (s.draws + m), ?_⟩
    simp only [SameUpToCur, withReceiver, withSender, Nat.add_right_comm s.draws k m]

end Sys2Proof.Safety

/-! # The line agents (43_line_agents R200 to R206) -/

namespace Sys2Proof.Machine

/-! ## When each line agent has a step, and what it is -/

/-- The length of a character is 5 plus LCR's two lowest bits (R201). -/
theorem charLength_eq (lcr : Byte) : charLength lcr = 5 + lcr.toNat % 4 := by
  simp [charLength, BitVec.extractLsb'_toNat]

/-- A character of the shift stage as it stands on the line: cut to the word length captured with it (R201). -/
def TxChar.onLine (x : TxChar) : TxChar := ⟨lowBits x.char (charLength x.lcr), x.lcr, x.div⟩

section
variable {s : State}

/-- The transmitter has a step with the gate ON and a character to load or to send (R200, R201, R206). -/
theorem enabled_transmitter : s.enabled .transmitter = true ↔ s.gate = .on ∧ (s.txsh ≠ none ∨ s.txq ≠ []) := by
  cases hx : s.txsh <;> simp [State.enabled, State.canSend, State.canLoad, hx]

/-- The receiver has a step with the gate ON: DONE with a character arriving, else START (R202, R203, R206). -/
theorem enabled_receiver : s.enabled .receiver = true ↔ s.gate = .on := by
  cases ha : s.rxActive <;> simp [State.enabled, State.canStart, State.canReceive, ha]

/-- TXL_LOAD (R200). -/
theorem transmitterStep_load {c : Byte} {q : List Byte} (hx : s.txsh = none) (hq : s.txq = c :: q) :
    transmitterStep s = .next { s with txsh := some ⟨c, s.lcr, s.dlh ++ s.dll⟩, txq := q } := by
  simp [transmitterStep, txlLoad, hx, hq]

/-- TXL_SEND (R201). -/
theorem transmitterStep_send {x : TxChar} (hx : s.txsh = some x) :
    transmitterStep s = .next { s with txsh := none, lineOut := s.lineOut ++ [x.onLine] } := by
  simp [transmitterStep, txlSend, hx, TxChar.onLine]

/-- RXL_START (R202). -/
theorem receiverStep_start (ha : s.rxActive = false) : receiverStep s = .next { s with rxActive := true } := by
  simp [receiverStep, rxlStart, ha]

/-- RXL_DONE where the receive FIFO has room (R203). -/
theorem receiverStep_done (ha : s.rxActive = true) (room : s.rxq.length ≠ s.par.rxDepth) :
    receiverStep s = .next { s with
      rxq := s.rxq ++ [s.free.extractLsb' 0 8], rxActive := false, draws := s.draws + 1 } := by
  simp [receiverStep, rxlDone, State.drew, ha, room]

/-- RXL_DONE on a full receive FIFO (R203, R225). -/
theorem receiverStep_overrun (ha : s.rxActive = true) (full : s.rxq.length = s.par.rxDepth) :
    receiverStep s = .fault (.rxOverrun (s.free.extractLsb' 0 8)) := by
  simp [receiverStep, rxlDone, ha, full]

end

/-- Settles O41: the transmitter's step by its shift stage, the receiver's by whether a character is arriving. -/
theorem lineAgentSteps : Obligations.LineAgentSteps := by
  refine fun s => ⟨enabled_transmitter, enabled_receiver, fun c q _ => transmitterStep_load, fun x _ hx => ?_,
    fun _ => receiverStep_start, fun _ ha => ⟨receiverStep_done ha, receiverStep_overrun ha⟩⟩
  rw [← charLength_eq]
  exact transmitterStep_send hx

end Sys2Proof.Machine

namespace Sys2Proof.Safety

open Sys2Proof.Machine

/-! ## The transmitter alone -/

/-- With the shift stage empty, two steps for each character of the queue send it (R200, R201). -/
theorem transmitTimes_queue (q : List Byte) (s : State) :
    transmitTimes (2 * q.length) { s with txsh := none, txq := q } = .next { s with
      txsh := none
      txq := []
      lineOut := s.lineOut ++ q.map fun c => TxChar.onLine ⟨c, s.lcr, s.dlh ++ s.dll⟩ } := by
  induction q generalizing s with
  | nil => simp [transmitTimes]
  | cons c q ih =>
    have loaded_sent : transmitTimes (2 * (c :: q).length) { s with txsh := none, txq := c :: q } =
        transmitTimes (2 * q.length) { s with
          txsh := none, txq := q, lineOut := s.lineOut ++ [TxChar.onLine ⟨c, s.lcr, s.dlh ++ s.dll⟩] } := rfl
    rw [loaded_sent, ih { s with lineOut := s.lineOut ++ [TxChar.onLine ⟨c, s.lcr, s.dlh ++ s.dll⟩] }]
    simp

/-- Settles O42, by induction on the queue: a load and a send for each character. -/
theorem transmitterDrains : Obligations.TransmitterDrains := by
  intro s _ empty
  have drains := transmitTimes_queue s.txq s
  rw [← empty] at drains
  exact drains

/-! ## What a step does to the line side -/

/-- What a step may do to the shift stage, the line and an arriving character: leave them, clear the two stages by the
gate reset of CF_GATE (R250), load or send (R200, R201), or, the receiver being asked, start or end an arrival (R202,
R203). -/
inductive LineMove (s t : State) : Prop
  | stays (txsh : t.txsh = s.txsh) (lineOut : t.lineOut = s.lineOut) (rxActive : t.rxActive = s.rxActive)
  | resets (e : EngineId) (phase : (s.engine e).phase = .cfGate) (rxActive : t.rxActive = false)
  | loads (empty : s.txsh = none) (rxActive : t.rxActive = s.rxActive)
  | sends (x : TxChar) (full : s.txsh = some x) (lineOut : t.lineOut = s.lineOut ++ [x.onLine])
      (rxActive : t.rxActive = s.rxActive)
  | receives (asked : s.turn = .receiver) (txsh : t.txsh = s.txsh) (lineOut : t.lineOut = s.lineOut)

section
variable {s t : State} {a : Agent} {x : TxChar}

/-- A step of the agent chosen leaves the port, and moves the line side; so it does with its bookkeeping after it. -/
theorem agentStep_lineMove (hc : s.chosen = some a) (h : agentStep a s = .next t) :
    t.advanced.port = s.port ∧ LineMove s t.advanced := by
  cases a with
  | engine e =>
    obtain ⟨i, hd, hx⟩ := engineStep_eq_next.1 h
    obtain ⟨port, lineOut, ⟨txsh, rxActive⟩ | ⟨phase, _, rxActive⟩⟩ := command_line (isCommand_of_decodeCommand hd) hx
    · exact ⟨port, .stays txsh lineOut rxActive⟩
    · exact ⟨port, .resets e phase rxActive⟩
  | transmitter =>
    obtain ⟨_, ⟨x, full, rfl⟩ | ⟨c, q, empty, _, rfl⟩⟩ := transmitterStep_cases (enabled_of_chosen hc) h
    · exact ⟨rfl, .sends x full rfl rfl⟩
    · exact ⟨rfl, .loads empty rfl⟩
  | receiver =>
    have asked := (asked_of_chosen hc (by simp)).symm
    obtain ⟨_, ⟨_, _, c, rfl⟩ | ⟨_, rfl⟩⟩ := receiverStep_cases (enabled_of_chosen hc) h <;>
      exact ⟨rfl, .receives asked rfl rfl⟩

/-- A transition without an access at the port brings none, and moves the line side; one that stops leaves it. -/
theorem advance_lineMove (hp : s.port = none) : (advance s).port = none ∧ LineMove s (advance s) := by
  unfold advance
  cases h : step s with
  | fault f => exact ⟨hp, .stays rfl rfl rfl⟩
  | refused r => exact ⟨hp, .stays rfl rfl rfl⟩
  | next t =>
    rw [State.settle_next]
    rcases step_next_cases h with ⟨rfl, _⟩ | ⟨_, _, _, rfl⟩ | ⟨req, _, _, hport, _, _⟩ | ⟨a, u, _, _, hc, hu, rfl⟩
    · exact ⟨hp, .stays rfl rfl rfl⟩
    · exact ⟨hp, .stays rfl rfl rfl⟩
    · cases hp.symm.trans hport
    · obtain ⟨port, move⟩ := agentStep_lineMove hc hu
      exact ⟨port.trans hp, move⟩

/-! ## A run that receives nothing (R202) -/

/-- The run from `s` that asks one agent alone. -/
def askingRun (a : Agent) (s : State) : Nat → State
  | 0 => s
  | n + 1 => advance (asking (askingRun a s n) a)

theorem askingRun_isRun (a : Agent) (s : State) : IsRun (fun _ => a) (askingRun a s) := fun _ => rfl

/-- Where the receiver is never asked, no character starts to arrive. -/
theorem askingRun_transmitter_quiet (hp : s.port = none) (ha : s.rxActive = false) (n : Nat) :
    (askingRun .transmitter s n).port = none ∧ (askingRun .transmitter s n).rxActive = false := by
  induction n with
  | zero => exact ⟨hp, ha⟩
  | succ n ih =>
    obtain ⟨hp, ha⟩ := ih
    obtain ⟨port, move⟩ := advance_lineMove (s := asking (askingRun .transmitter s n) .transmitter) hp
    refine ⟨port, ?_⟩
    cases move with
    | stays _ _ rxActive | loads _ rxActive | sends _ _ _ rxActive => exact rxActive.trans ha
    | resets _ _ rxActive => exact rxActive
    | receives asked => cases asked

/-- An agent asked that has a step takes it, where no mark and no access stands before it (R69, R226). -/
theorem stepAgent_asking (hm : s.marked = false) (hp : s.port = none) (he : s.enabled a = true) :
    stepAgent (asking s a) = some a := by
  have chosen := chosen_asked (s := asking s a) ((asking_enabled a a).trans he)
  simpa [stepAgent, hm, hp] using chosen

/-- TXL_LOAD owed is the transmitter enabled. -/
theorem enabled_of_loadOwed (h : loadOwed s) : s.enabled .transmitter = true := by
  obtain ⟨_, load, _⟩ := h
  simp [State.enabled, load]

/-- TXL_SEND owed is the transmitter enabled. -/
theorem enabled_of_sendOwed (h : sendOwed s) : s.enabled .transmitter = true := by
  obtain ⟨_, gate, x, full, _⟩ := h
  exact enabled_transmitter.2 ⟨gate, .inl (by simp [full])⟩

/-- Without a character arriving no RXL_DONE is owed. -/
theorem not_doneOwed_of_quiet (ha : s.rxActive = false) : ¬doneOwed s := by
  rintro ⟨_, receive, _⟩
  simp [State.canReceive, ha] at receive

/-- The run that asks the transmitter alone is fair to the line agents. -/
theorem askingRun_transmitter_fair (hp : s.port = none) (ha : s.rxActive = false) :
    LineFair (fun _ => .transmitter) (askingRun .transmitter s) := by
  have quiet := askingRun_transmitter_quiet hp ha
  refine ⟨fun n owed => ⟨n, le_rfl, ?_⟩, fun n owed => ⟨n, le_rfl, ?_⟩, fun n owed => ?_⟩
  · exact stepAgent_asking (owed n le_rfl).1 (quiet n).1 (enabled_of_loadOwed (owed n le_rfl))
  · exact stepAgent_asking (owed n le_rfl).1 (quiet n).1 (enabled_of_sendOwed (owed n le_rfl))
  · exact absurd (owed n le_rfl) (not_doneOwed_of_quiet (quiet n).2)

/-! ## Nothing is owed forever (R205) -/

/-- A transition in which an agent steps is that agent's step, or its stop. -/
theorem advance_of_stepAgent (h : stepAgent s = some a) : advance s = s.settle (afterStep (agentStep a s)) := by
  rw [advance, (step_of_stepAgent h).2]

/-- After a load the shift stage is full. -/
theorem not_loadOwed_advance (owed : loadOwed s) (h : stepAgent s = some .transmitter) : ¬loadOwed (advance s) := by
  obtain ⟨_, load, _⟩ := owed
  obtain ⟨_, empty, queue⟩ : s.gate = .on ∧ s.txsh = none ∧ s.txq ≠ [] := by
    simpa [State.canLoad, and_assoc] using load
  obtain ⟨c, q, hq⟩ := List.exists_cons_of_ne_nil queue
  rw [advance_of_stepAgent h, agentStep, transmitterStep_load empty hq]
  rintro ⟨_, again, _⟩
  simp [afterStep, State.canLoad] at again

/-- After a send the shift stage is empty. -/
theorem not_sendOwed_advance (owed : sendOwed s) (h : stepAgent s = some .transmitter) : ¬sendOwed (advance s) := by
  obtain ⟨_, _, x, full, _⟩ := owed
  rw [advance_of_stepAgent h, agentStep, transmitterStep_send full]
  rintro ⟨_, _, y, again, _⟩
  cases again

/-- After an arrival no character is arriving, or the overrun's mark stands. -/
theorem not_doneOwed_advance (owed : doneOwed s) (h : stepAgent s = some .receiver) : ¬doneOwed (advance s) := by
  obtain ⟨_, receive, _⟩ := owed
  obtain ⟨_, ha⟩ : s.gate = .on ∧ s.rxActive = true := by simpa [State.canReceive] using receive
  rw [advance_of_stepAgent h, agentStep]
  by_cases full : s.rxq.length = s.par.rxDepth
  · rw [receiverStep_overrun ha full]
    exact fun again => Bool.false_ne_true (again.1.symm.trans (s.markFault_marked _))
  · rw [receiverStep_done ha full]
    exact not_doneOwed_of_quiet rfl

/-- A step owed forever is taken by fairness, and is then owed no more. -/
theorem WeaklyFair.not_owed_forever {ask : Nat → Agent} {r : Nat → State} {owed : State → Prop}
    (fair : WeaklyFair ask r a owed) (run : IsRun ask r) (asked : ∀ s b, owed s → owed (asking s b))
    (taken : ∀ s, owed s → stepAgent s = some a → ¬owed (advance s)) (n : Nat) : ∃ m, n ≤ m ∧ ¬owed (r m) := by
  by_contra! always
  obtain ⟨m, hm, h⟩ := fair n always
  have next := always (m + 1) (by omega)
  rw [run m] at next
  exact taken _ (asked _ _ (always m hm)) h next

/-! ## A character in the shift stage is sent (R201, R205) -/

/-- With a handle no agent is about to reset the gate (R167). -/
theorem RunInvariant.phase_ne_cfGate (hI : RunInvariant s) (handle : s.hs ≠ .unbound) (e : EngineId) :
    (s.engine e).phase ≠ .cfGate := by
  intro hp
  obtain ⟨i, _, phase, runs, _⟩ := hI.command e (by simp [hp])
  rw [hp] at phase
  cases i
  case configure => exact handle (mayRun_configure runs).2
  all_goals cases phase

theorem RunInvariant.asking (hI : RunInvariant s) (a : Agent) : RunInvariant (asking s a) :=
  hI.of_same (asking_engine a) rfl rfl rfl rfl le_rfl id

/-- With a handle a transition sends the character in the shift stage, or leaves it there and the line as it is. -/
theorem sent_or_waits (hI : RunInvariant s) (handle : s.hs ≠ .unbound) (hx : s.txsh = some x) :
    (advance s).lineOut = s.lineOut ++ [x.onLine] ∨
      ((advance s).txsh = some x ∧ (advance s).lineOut = s.lineOut) := by
  cases (advance_lineMove hI.noPort).2 with
  | stays txsh lineOut | receives _ txsh lineOut => exact .inr ⟨txsh.trans hx, lineOut⟩
  | resets e phase => exact absurd phase (hI.phase_ne_cfGate handle e)
  | loads empty => cases hx.symm.trans empty
  | sends y full lineOut =>
    cases hx.symm.trans full
    exact .inl lineOut

end

/-- In a fair run the character in the shift stage goes on the line next, while a handle and no mark stands: as long as
it is not sent it stays there, owed a send. -/
theorem LineFair.sends {ask : Nat → Agent} {r : Nat → State} {n : Nat} {x : TxChar} (fair : LineFair ask r)
    (run : IsRun ask r) (hI : RunInvariant (r n)) (stands : ∀ m, n ≤ m → (r m).hs ≠ .unbound ∧ (r m).marked = false)
    (hx : (r n).txsh = some x) (div : x.div ≠ 0) : ∃ m, n ≤ m ∧ (r m).lineOut = (r n).lineOut ++ [x.onLine] := by
  by_contra! unsent
  have waits : ∀ m, n ≤ m → RunInvariant (r m) ∧ (r m).txsh = some x ∧ (r m).lineOut = (r n).lineOut := by
    intro m hm
    induction m, hm using Nat.le_induction with
    | base => exact ⟨hI, hx, rfl⟩
    | succ m hm ih =>
      obtain ⟨hI, hx, lineOut⟩ := ih
      have next := run m
      have kept := runInvariantKept _ _ (hI.asking (ask m))
        (step_next_of_unmarked (next ▸ (stands (m + 1) (by omega)).2))
      rcases sent_or_waits (hI.asking (ask m)) (stands m hm).1 hx with sent | ⟨txsh, line⟩
      · rw [← next, asking_lineOut, lineOut] at sent
        exact absurd sent (unsent (m + 1) (by omega))
      · rw [← next] at kept txsh line
        exact ⟨kept, txsh, line.trans lineOut⟩
  obtain ⟨_, send, _⟩ := fair
  obtain ⟨m, hm, not_owed⟩ := send.not_owed_forever run (fun _ _ => id) (fun _ => not_sendOwed_advance) n
  obtain ⟨hI, hx, _⟩ := waits m hm
  exact not_owed ⟨(stands m hm).2, hI.gateHandle (stands m hm).1, x, hx, div⟩

/-- Settles O60: asking the transmitter alone receives nothing, a step owed and taken is owed no more, and a character
not yet sent is owed a send. -/
theorem runsOfTheLine : Obligations.RunsOfTheLine := by
  refine ⟨fun s hp ha => ?_, fun ask r run fair n => ?_, fun ask r n x run fair hI stands hx div => ?_⟩
  · exact ⟨fun _ => .transmitter, askingRun .transmitter s, rfl, askingRun_isRun _ s, askingRun_transmitter_fair hp ha,
      fun n => (askingRun_transmitter_quiet hp ha n).2⟩
  · obtain ⟨load, send, done⟩ := fair
    exact ⟨load.not_owed_forever run (fun _ _ => id) (fun _ => not_loadOwed_advance) n,
      send.not_owed_forever run (fun _ _ => id) (fun _ => not_sendOwed_advance) n,
      done.not_owed_forever run (fun _ _ => id) (fun _ => not_doneOwed_advance) n⟩
  · exact fair.sends run hI stands hx div

end Sys2Proof.Safety

/-! # Stops: marks, gated accesses, the interrupt output and the faults of a run (60_exceptions) -/

namespace Sys2Proof.Safety

open Sys2Proof.Machine

/-! ## Marked states (R226) -/

section
variable {s : State}

/-- A final state has no mark (R173). -/
theorem not_marked_of_final (h : final s = true) : s.marked = false := by
  obtain ⟨_, faults, refused⟩ := (final_iff s).1 h
  simp [State.marked, faults, refused]

/-- A marked state is quiescent and not final (R226). -/
theorem quiescent_of_marked (h : s.marked = true) : step s = .next s ∧ final s = false :=
  ⟨step_marked h, Bool.eq_false_iff.2 fun hf => Bool.false_ne_true ((not_marked_of_final hf).symm.trans h)⟩

end

/-- Settles O46: the state a stop leaves holds its mark, and a marked state is quiescent. -/
theorem markedIsQuiescent : Obligations.MarkedIsQuiescent := by
  refine ⟨fun _ => quiescent_of_marked, fun s f h => ?_, fun s r h => ?_⟩
  · rw [advance, h, State.settle_fault]
    exact ⟨s.mem_markFault f, quiescent_of_marked (s.markFault_marked f)⟩
  · rw [advance, h, State.settle_refused]
    exact ⟨s.mem_markRefusal r, quiescent_of_marked (s.markRefusal_marked r)⟩

/-! ## Accesses with the gate OFF (R222) -/

/-- An instruction with the shape of an access is no command (R82, R85). -/
theorem opOf_of_busShape {i : Instr} {x : Dir × Offset × Width} (h : busShape i = some x) : opOf i = none := by
  cases i
  case configure | writeByte | flush | readByte | release | split => cases h
  all_goals rfl

/-- An access instruction with the gate OFF faults with its shape, its row standing behind the gate check. -/
theorem exec_gate_off {i : Instr} {dir : Dir} {off : Offset} {n : Width} {s : State}
    (h : busShape i = some (dir, off, n)) (hg : s.gate = .off) : exec i s = .fault (.gatedAccess dir off n) := by
  rw [exec_eq_deliver_runRow default (opOf_of_busShape h), runRow_gate_off hg h, deliver_fault]

section
variable {s : State} (hg : s.gate = .off)
include hg

/-- WB_POLL reads USR's byte (R162). -/
theorem execWriteByte_poll_off (b : Byte) (hp : s.self.phase = .wbPoll) :
    execWriteByte b s = .fault (.gatedAccess .read 0x7C#7 .byte) := by
  simp only [execWriteByte, hp, memRead_off hg (.inl rfl), andThen_fault]

/-- WB_PUSH writes at 0x00 (R162). -/
theorem execWriteByte_push_off (b : Byte) (hp : s.self.phase = .wbPush) :
    execWriteByte b s = .fault (.gatedAccess .write 0x00#7 .word) := by
  simp only [execWriteByte, hp, memWrite_off hg (.inr (.inr rfl)), andThen_fault]

/-- FL_POLL reads USR's byte (R163). -/
theorem execFlush_poll_off (hp : s.self.phase = .flPoll) :
    execFlush s = .fault (.gatedAccess .read 0x7C#7 .byte) := by
  simp only [execFlush, hp, memRead_off hg (.inl rfl), andThen_fault]

/-- RB_POLL reads LSR (R164). -/
theorem execReadByte_poll_off (hp : s.self.phase = .rbPoll) :
    execReadByte s = .fault (.gatedAccess .read 0x14#7 .word) := by
  simp only [execReadByte, hp, memRead_off hg (.inr (.inl rfl)), andThen_fault]

/-- RB_POP reads at 0x00 (R164). -/
theorem execReadByte_pop_off (hp : s.self.phase = .rbPop) :
    execReadByte s = .fault (.gatedAccess .read 0x00#7 .word) := by
  simp only [execReadByte, hp, memRead_off hg (.inr (.inr (.inr (.inr rfl)))), andThen_fault]

end

/-- Settles O15: with the gate OFF each row faults, and so do the reads and the write the commands are made of. -/
theorem gatedAccessFaults : Obligations.GatedAccessFaults :=
  ⟨fun _ _ _ _ _ => exec_gate_off, fun b _ hg =>
    ⟨execWriteByte_poll_off hg b, execWriteByte_push_off hg b, execFlush_poll_off hg, execReadByte_poll_off hg,
      execReadByte_pop_off hg⟩⟩

/-! ## The interrupt output (R229) -/

/-- WR_IER answers a next state with the gate ON alone, and sets IER to the value's low byte (R105, R222). -/
theorem exec_wrIer_eq_next {v : Word} {s t : State} (h : exec (.wrIer v) s = .next t) :
    t = { s with ier := v.setWidth 8 } := by
  rcases s.gate_cases with hg | hg
  · rw [exec_gate_off rfl hg] at h
    cases h
  · rw [(writeStoredRegisters.2 v s hg).1] at h
    cases h
    rfl

/-- With the four sources masked the interrupt output is 0 (R229). -/
theorem irq_masked {s : State} (h : s.ier.extractLsb' 0 4 = 0) : s.irq = false := if_pos h

/-- Settles O27: WR_IER writes the enables as the value has them, and with all of them clear the output is 0. -/
theorem maskedInterruptOutput : Obligations.MaskedInterruptOutput := by
  refine ⟨fun _ => irq_masked, fun v s t hv h => irq_masked ?_⟩
  rw [exec_wrIer_eq_next h, ← hv]
  exact BitVec.extractLsb'_setWidth_of_le (by decide)

/-! ## The faults of a run (R222 to R225) -/

section
variable {s : State} {f : Fault}

/-- An outcome that is a next state is no fault. -/
theorem ne_fault_of_eq_next {o : Outcome} {t : State} (h : o = .next t) : o ≠ .fault f := by
  rw [h]
  exact nofun

/-- A fetch never faults: it makes no access (R160). -/
theorem exec_fetch_ne_fault {i : Instr} {op : CommandOp} (hop : opOf i = some op) (hp : s.self.phase = .idle) :
    exec i s ≠ .fault f := by
  rw [exec_fetch hop hp, whenAdmitted]
  split
  · cases fetchRefusal s.par.clkHz s.cur s.self i <;> exact nofun
  · exact nofun

/-- CONFIGURE does not fault where the gate is ON after CF_GATE and CF_DLL's write finds room (R161). -/
theorem execConfigure_ne_fault (wl : WordLength) (st : StopBits) (par : Parity) (baud : Word)
    (gate : afterGate s.self.phase = true → s.gate = .on)
    (room : s.self.phase = .cfDll → s.txq.length ≠ s.par.txDepth) : execConfigure wl st par baud s ≠ .fault f := by
  cases hp : s.self.phase
  case idle => exact exec_fetch_ne_fault (i := .configure wl st par baud) rfl hp
  case cfGate => exact ne_fault_of_eq_next (execConfigure_gate wl st par baud hp)
  case cfIerRd => exact ne_fault_of_eq_next (execConfigure_read_04 wl st par baud (gate (hp ▸ rfl)) hp)
  case cfIerWr =>
    cases hd : s.dlab
    · exact ne_fault_of_eq_next (execConfigure_ierWr wl st par baud (gate (hp ▸ rfl)) hp hd)
    · exact ne_fault_of_eq_next (execConfigure_ierWr_dlab wl st par baud (gate (hp ▸ rfl)) hp hd)
  case cfDiv =>
    simp only [execConfigure, hp, ne_eq, withDivisor_eq_fault, reduceCtorEq, and_false, exists_false,
      not_false_eq_true]
  case cfLcrRd1 => exact ne_fault_of_eq_next (execConfigure_lcrRd1 wl st par baud (gate (hp ▸ rfl)) hp)
  case cfLcrSet => exact ne_fault_of_eq_next (execConfigure_lcrSet wl st par baud (gate (hp ▸ rfl)) hp)
  case cfDll =>
    cases hd : s.dlab
    · exact ne_fault_of_eq_next (execConfigure_dll_thr wl st par baud (gate (hp ▸ rfl)) hp hd (room hp))
    · exact ne_fault_of_eq_next (execConfigure_dll wl st par baud (gate (hp ▸ rfl)) hp hd)
  case cfDlh =>
    cases hd : s.dlab
    · exact ne_fault_of_eq_next (execConfigure_dlh_ier wl st par baud (gate (hp ▸ rfl)) hp hd)
    · exact ne_fault_of_eq_next (execConfigure_dlh wl st par baud (gate (hp ▸ rfl)) hp hd)
  case cfLcrClr => exact ne_fault_of_eq_next (execConfigure_lcrClr wl st par baud (gate (hp ▸ rfl)) hp)
  case cfLcrRd2 => exact ne_fault_of_eq_next (execConfigure_lcrRd2 wl st par baud (gate (hp ▸ rfl)) hp)
  case cfLcrWr => exact ne_fault_of_eq_next (execConfigure_lcrWr wl st par baud (gate (hp ▸ rfl)) hp)
  all_goals
    rw [execConfigure, hp]
    exact nofun

section
variable (gate : s.self.phase ≠ .idle → s.gate = .on)
include gate

/-- WRITE_BYTE does not fault where the gate is ON and its push finds room (R162). -/
theorem execWriteByte_ne_fault (b : Byte) (room : s.self.phase = .wbPush → s.txq.length ≠ s.par.txDepth) :
    execWriteByte b s ≠ .fault f := by
  cases hp : s.self.phase
  case idle => exact exec_fetch_ne_fault (i := .writeByte b) rfl hp
  case wbPoll => exact ne_fault_of_eq_next (execWriteByte_poll (gate (hp ▸ nofun)) b hp)
  case wbPush =>
    cases hd : s.dlab
    · exact ne_fault_of_eq_next (execWriteByte_push (gate (hp ▸ nofun)) b hp hd (room hp))
    · exact ne_fault_of_eq_next (execWriteByte_push_dlab (gate (hp ▸ nofun)) b hp hd)
  all_goals
    rw [execWriteByte, hp]
    exact nofun

/-- FLUSH does not fault where the gate is ON (R163). -/
theorem execFlush_ne_fault : execFlush s ≠ .fault f := by
  cases hp : s.self.phase
  case idle => exact exec_fetch_ne_fault (i := .flush) rfl hp
  case flPoll => exact ne_fault_of_eq_next (execFlush_poll (gate (hp ▸ nofun)) hp)
  all_goals
    rw [execFlush, hp]
    exact nofun

/-- READ_BYTE does not fault where the gate is ON and its pop finds data (R164). -/
theorem execReadByte_ne_fault (data : s.self.phase = .rbPop → s.rxq ≠ []) : execReadByte s ≠ .fault f := by
  cases hp : s.self.phase
  case idle => exact exec_fetch_ne_fault (i := .readByte) rfl hp
  case rbPoll => exact ne_fault_of_eq_next (execReadByte_poll (gate (hp ▸ nofun)) hp)
  case rbPop =>
    cases hd : s.dlab
    · obtain ⟨c, q, hq⟩ := List.exists_cons_of_ne_nil (data hp)
      exact ne_fault_of_eq_next (execReadByte_pop (gate (hp ▸ nofun)) hp hd hq)
    · exact ne_fault_of_eq_next (execReadByte_pop_dlab (gate (hp ▸ nofun)) hp hd)
  all_goals
    rw [execReadByte, hp]
    exact nofun

end

/-- RELEASE makes no access (R165). -/
theorem execRelease_ne_fault : execRelease s ≠ .fault f := by
  cases hp : s.self.phase
  case idle => exact exec_fetch_ne_fault (i := .release) rfl hp
  all_goals
    rw [execRelease, hp]
    exact nofun

/-- SPLIT makes no access (R166). -/
theorem execSplit_ne_fault : execSplit s ≠ .fault f := by
  cases hp : s.self.phase
  case idle => exact exec_fetch_ne_fault (i := .split) rfl hp
  all_goals
    rw [execSplit, hp]
    exact nofun

section
variable {i : Instr} (hI : RunInvariant s)
include hI

/-- Inside a command of a handle the gate is ON (R257). -/
theorem RunInvariant.gate_of_inside (hd : decodeCommand (s.engine s.cur).words = .ok i)
    (hne : opOf i ≠ some .configure) (hp : s.self.phase ≠ .idle) : s.gate = .on := by
  refine hI.gateHandle fun unbound => hne ?_
  have admits := (hI.inside hd rfl hp).1
  rw [unbound] at admits
  exact configure_of_mayRun_unbound admits

/-- No command of the agent `cur` faults in a run. -/
theorem RunInvariant.command_ne_fault (hd : decodeCommand (s.engine s.cur).words = .ok i) : exec i s ≠ .fault f := by
  have own := hI.agent s.cur
  have hi := isCommand_of_decodeCommand hd
  cases i <;> simp only [isCommand, Bool.false_eq_true] at hi
  case configure =>
    refine execConfigure_ne_fault _ _ _ _ own.gate fun hp => ?_
    have empty : s.txq = [] := own.empty (by rw [← State.self_eq, hp]; rfl)
    rw [empty]
    exact Nat.ne_of_lt hI.txDepth_pos
  case writeByte => exact execWriteByte_ne_fault (hI.gate_of_inside hd nofun) _ fun hp => (own.room hp).ne
  case flush => exact execFlush_ne_fault (hI.gate_of_inside hd nofun)
  case readByte => exact execReadByte_ne_fault (hI.gate_of_inside hd nofun) own.data
  case release => exact execRelease_ne_fault
  case split => exact execSplit_ne_fault

end

end

/-- Settles O56: the agents inside commands find the gate ON, room and data by the invariant of a run, so that only
the receiver is left to fault. -/
theorem onlyOverrunFaults : Obligations.OnlyOverrunFaults := by
  intro s f hI h
  rcases step_fault_cases h with ⟨req, hport, _⟩ | ⟨a, _, _, hf⟩
  · rw [hI.noPort] at hport
    cases hport
  · cases a with
    | engine e =>
      obtain ⟨i, hd, hx⟩ := engineStep_eq_fault.1 hf
      exact absurd hx ((hI.withCur e).command_ne_fault hd)
    | transmitter => exact absurd hf transmitterStep_ne_fault
    | receiver => exact receiverStep_fault hf

end Sys2Proof.Safety

/-! # Launch, the gate reset and the baud rate (70_reset_and_hazards R250 to R253, R265) -/

namespace Sys2Proof.Machine

/-- Settles O24: the divisor is the quotient's low 16 bits, and the quotient is 0 where C + 8 B < 16 B. -/
theorem baudValidation : Obligations.BaudValidation := by
  intro c b d ok
  obtain ⟨_, _, _, rfl⟩ := divisor_eq_ok.1 ok
  refine ⟨fun whole => ?_, fun longer => ?_, fun fast => ?_⟩
  · rw [BitVec.toNat_ofNat, Nat.mod_eq_of_lt (by omega)]
  · have short := (BitVec.ofNat 16 ((c + 8 * b) / (16 * b))).isLt
    omega
  · rw [Nat.div_eq_of_lt (by omega)]
    rfl

/-- Settles O28: the gate named is the block's own. -/
theorem clockGateContract : Obligations.ClockGateContract := fun s => ⟨gateReset_own s, gateFree_own s, rfl⟩

/-- Settles O29, field by field. -/
theorem launchState : Obligations.LaunchState := ⟨rfl, rfl, rfl, rfl, rfl, rfl, rfl, rfl, rfl, rfl, rfl⟩

end Sys2Proof.Machine

namespace Sys2Proof.Safety

open Sys2Proof.Machine

/-- The open parameters are brought into their ranges at launch, whatever they are (R5). -/
theorem launch_params_valid : Params.launch.valid = true := by
  have clk : Config.clkSeed % (2 ^ 32 - 1) < 2 ^ 32 - 1 := Nat.mod_lt _ (by decide)
  simp only [Params.valid, Bool.and_eq_true, beq_iff_eq, decide_eq_true_eq]
  dsimp only [Params.launch]
  omega

/-- Settles O53: at launch every agent is idle, no handle stands and the FIFOs are empty. -/
theorem launchInvariants : Obligations.LaunchInvariants := by
  have unbound : State.reset.hs = .unbound := rfl
  refine ⟨.of_idle launch_params_valid rfl (absurd unbound) fun a => ?_, ⟨rfl, ?_⟩, Nat.zero_le _, Nat.zero_le _⟩
  · cases a <;> exact ⟨rfl, rfl⟩
  · exact (configureProgress_iff rfl).2 (absurd unbound)

/-! # A poll before every data access (70_reset_and_hazards R259) -/

/-- An agent enters WB_PUSH only from a poll that showed room, and RB_POP only from one that showed data: what `s` has
to show where an agent goes from phase `p` to phase `q`. -/
def PollShows (s : State) (p q : Phase) : Prop :=
  (q = .wbPush → p = .wbPush ∨ (p = .wbPoll ∧ s.showsRoom = true)) ∧
    (q = .rbPop → p = .rbPop ∨ (p = .rbPoll ∧ s.rxq ≠ []))

/-- Every agent goes on as the polls of `s` allow. -/
def PollsPrecede (s t : State) : Prop := ∀ e, PollShows s (s.engine e).phase (t.engine e).phase

section
variable {s t u : State} {p q : Phase}

theorem PollShows.refl (s : State) (p : Phase) : PollShows s p p := ⟨.inl, .inl⟩

/-- The other phases ask for no poll. -/
theorem PollShows.of_ne (push : q ≠ .wbPush) (pop : q ≠ .rbPop) : PollShows s p q := ⟨(absurd · push), (absurd · pop)⟩

/-! ## Steps that move no agent -/

theorem PollsPrecede.of_engines (same : ∀ e, t.engine e = s.engine e) : PollsPrecede s t := fun e => by
  rw [same]
  exact .refl s _

theorem PollsPrecede.refl (s : State) : PollsPrecede s s := .of_engines fun _ => rfl

theorem PollsPrecede.drew (s : State) : PollsPrecede s s.drew := .of_engines fun _ => rfl

theorem PollsPrecede.blockReset (s : State) : PollsPrecede s s.blockReset := .of_engines fun _ => rfl

theorem PollsPrecede.withHandle (h : PollsPrecede s u) (g : Gate) (hs : HandleState) :
    PollsPrecede s { u with gate := g, hs := hs } := h

/-- A register write of CONFIGURE moves no agent. -/
theorem PollsPrecede.of_registerWrite (h : RegisterWrite s u) : PollsPrecede s u := by
  rw [h.1]
  exact .of_engines fun _ => rfl

/-! ## Updates of one agent -/

/-- One agent goes to a phase its polls allow. -/
theorem PollsPrecede.setEngine (h : PollsPrecede s u) (a : EngineId) {f : Engine}
    (shows : PollShows s (s.engine a).phase f.phase) : PollsPrecede s (u.setEngine a f) := by
  intro e
  by_cases he : e = a
  · subst he
    simpa using shows
  · rw [State.engine_setEngine_ne _ _ _ _ he]
    exact h e

theorem PollsPrecede.setT (h : PollsPrecede s u) (v : Word) : PollsPrecede s (u.setT v) := h.setEngine _ (h _)

theorem PollsPrecede.setD (h : PollsPrecede s u) (d : Divisor) : PollsPrecede s (u.setD d) := h.setEngine _ (h _)

theorem PollsPrecede.deliverByte (h : PollsPrecede s u) (b : Byte) : PollsPrecede s (u.deliverByte b) :=
  h.setEngine _ (h _)

theorem PollsPrecede.setLive (h : PollsPrecede s u) (a : EngineId) (l : Bool) : PollsPrecede s (u.setLive a l) :=
  h.setEngine _ (h _)

/-- The agent `cur` goes to a phase that asks for no poll. -/
theorem PollsPrecede.toPhase (h : PollsPrecede s u) (free : q ≠ .wbPush ∧ q ≠ .rbPop) : PollsPrecede s (u.toPhase q) :=
  h.setEngine _ (.of_ne free.1 free.2)

theorem PollsPrecede.complete (h : PollsPrecede s u) (k : Nat) : PollsPrecede s (u.complete k) :=
  h.setEngine _ (.of_ne nofun nofun)

/-- A fetch enters no data phase (R160). -/
theorem PollsPrecede.fetch (s : State) (op : CommandOp) : PollsPrecede s (s.toPhase (firstPhase op)) :=
  (PollsPrecede.refl s).toPhase (firstPhase_free op).2

/-! ## The steps -/

theorem execConfigure_pollsPrecede {wl : WordLength} {st : StopBits} {par : Parity} {baud : Word}
    (h : execConfigure wl st par baud s = .next t) : PollsPrecede s t := by
  rcases execConfigure_next h with ⟨_, _, _, rfl⟩ | ⟨_, rfl⟩ | ⟨_, d, _, rfl⟩ | ⟨p, q, hpq, _, _, w, rfl⟩ |
    ⟨p, q, hpq, _, _, u, hu, _, rfl⟩ | ⟨_, _, u, hu, _, rfl⟩
  case inl => exact .fetch s .configure
  case inr.inl => exact (PollsPrecede.blockReset s).toPhase ⟨nofun, nofun⟩
  case inr.inr.inl => exact ((PollsPrecede.refl s).setD d).toPhase ⟨nofun, nofun⟩
  case inr.inr.inr.inl =>
    have free : q ≠ .wbPush ∧ q ≠ .rbPop := by
      constructor <;> rintro rfl <;> simp at hpq
    exact ((PollsPrecede.drew s).setT w).toPhase free
  case inr.inr.inr.inr.inl =>
    have free : q ≠ .wbPush ∧ q ≠ .rbPop := by
      constructor <;> rintro rfl <;> simp at hpq
    exact (PollsPrecede.of_registerWrite hu).toPhase free
  case inr.inr.inr.inr.inr =>
    exact ((PollsPrecede.of_registerWrite hu).withHandle _ _).complete 2

/-- WB_PUSH is entered from WB_POLL, where the status shows room (R162). -/
theorem execWriteByte_pollsPrecede {b : Byte} (h : execWriteByte b s = .next t) : PollsPrecede s t := by
  rcases execWriteByte_next h with ⟨_, _, rfl⟩ | ⟨hp, _, ⟨room, rfl⟩ | ⟨_, rfl⟩⟩ | ⟨_, _, ⟨_, _, rfl⟩ | ⟨_, rfl⟩⟩
  · exact .fetch s .writeByte
  · exact (PollsPrecede.drew s).setEngine _ ⟨fun _ => .inr ⟨hp, room⟩, nofun⟩
  · exact .drew s
  · have pushed : PollsPrecede s { s with txq := s.txq ++ [b] } := .of_engines fun _ => rfl
    exact pushed.complete 1
  · exact (PollsPrecede.of_registerWrite (registerWrite_guardedDll _ b)).complete 1

theorem execFlush_pollsPrecede (h : execFlush s = .next t) : PollsPrecede s t := by
  rcases execFlush_next h with ⟨_, _, rfl⟩ | ⟨_, _, ⟨_, rfl⟩ | ⟨_, rfl⟩⟩
  · exact .fetch s .flush
  · exact (PollsPrecede.drew s).complete 1
  · exact .drew s

/-- RB_POP is entered from RB_POLL, where DR = 1 (R164). -/
theorem execReadByte_pollsPrecede (h : execReadByte s = .next t) : PollsPrecede s t := by
  rcases execReadByte_next h with ⟨_, _, rfl⟩ | ⟨hp, _, ⟨data, rfl⟩ | ⟨_, rfl⟩⟩ |
    ⟨_, _, ⟨_, c, q, _, rfl⟩ | ⟨_, rfl⟩⟩
  · exact .fetch s .readByte
  · exact (PollsPrecede.drew s).setEngine _ ⟨nofun, fun _ => .inr ⟨hp, s.data_of_dr data⟩⟩
  · exact .drew s
  · have popped : PollsPrecede s (State.drew { s with rxq := q }) := .of_engines fun _ => rfl
    exact (popped.deliverByte c).complete 1
  · exact ((PollsPrecede.drew s).deliverByte _).complete 1

theorem execRelease_pollsPrecede (h : execRelease s = .next t) : PollsPrecede s t := by
  rcases execRelease_next h with ⟨_, _, rfl⟩ | ⟨_, rfl⟩
  · exact .fetch s .release
  · exact ((PollsPrecede.refl s).withHandle _ _).complete 1

theorem execSplit_pollsPrecede (h : execSplit s = .next t) : PollsPrecede s t := by
  rcases execSplit_next h with ⟨_, _, _, rfl⟩ | ⟨_, rfl⟩
  · exact .fetch s .split
  · exact (((((PollsPrecede.refl s).withHandle _ _).complete 1).setLive _ _).setLive _ _).setLive _ _

theorem command_pollsPrecede {i : Instr} (hi : isCommand i = true) (h : exec i s = .next t) : PollsPrecede s t := by
  cases i <;> simp only [isCommand, Bool.false_eq_true] at hi
  case configure => exact execConfigure_pollsPrecede h
  case writeByte => exact execWriteByte_pollsPrecede h
  case flush => exact execFlush_pollsPrecede h
  case readByte => exact execReadByte_pollsPrecede h
  case release => exact execRelease_pollsPrecede h
  case split => exact execSplit_pollsPrecede h

/-- An access moves no agent. -/
theorem access_pollsPrecede {i : Instr} (hi : opOf i = none) (h : exec i s = .next t) : PollsPrecede s t := by
  rw [(access_change hi h).rest]
  exact .of_engines fun _ => rfl

theorem transmitterStep_pollsPrecede (he : s.enabled .transmitter = true) (h : transmitterStep s = .next t) :
    PollsPrecede s t := by
  obtain ⟨_, ⟨_, _, rfl⟩ | ⟨_, _, _, _, rfl⟩⟩ := transmitterStep_cases he h <;> exact .of_engines fun _ => rfl

theorem receiverStep_pollsPrecede (he : s.enabled .receiver = true) (h : receiverStep s = .next t) :
    PollsPrecede s t := by
  obtain ⟨_, ⟨_, _, _, rfl⟩ | ⟨_, rfl⟩⟩ := receiverStep_cases he h <;> exact .of_engines fun _ => rfl

end

/-- Settles O52: of all steps only WB_POLL and RB_POLL enter a data phase, each on what its status shows. -/
theorem pollPrecedesData : Obligations.PollPrecedesData := fun _ _ e h =>
  step_relates (P := PollsPrecede) (stays := .refl) (advances := fun _ _ h => h)
    (access := fun _ _ _ => access_pollsPrecede)
    (takesPort := fun _ _ h => h)
    (command := fun _ _ _ => command_pollsPrecede)
    (takesCur := fun _ _ _ h => h)
    (transmitter := fun _ _ _ => transmitterStep_pollsPrecede)
    (receiver := fun _ _ _ => receiverStep_pollsPrecede) h e

end Sys2Proof.Safety

/-! # CONFIGURE from its fetch to its end (70_reset_and_hazards R256, R262) -/

namespace Sys2Proof.Safety

open Sys2Proof.Machine

section
variable {s u : State} {wl : WordLength} {st : StopBits} {par : Parity} {baud : Word} {p : Phase} {k : Nat} {o : Outcome}

/-! ## One phase, then the rest of the run -/

theorem configureTimes_next (h : execConfigure wl st par baud s = .next u)
    (rest : execTimes (.configure wl st par baud) k u = o) : execTimes (.configure wl st par baud) (k + 1) s = o := by
  rw [execTimes, exec, h, andThen_next, rest]

/-- A write that LCR_BUSY_GUARD lets through (R103, R107, R111). -/
theorem configureTimes_made
    (h : execConfigure wl st par baud s = .next (State.toPhase (if s.par.lcrBusyGuard && s.busy then s else u) p))
    (made : (s.par.lcrBusyGuard && s.busy) = false)
    (rest : execTimes (.configure wl st par baud) k (u.toPhase p) = o) :
    execTimes (.configure wl st par baud) (k + 1) s = o := by
  rw [made] at h
  exact configureTimes_next h rest

/-- A write that LCR_BUSY_GUARD loses. -/
theorem configureTimes_lost
    (h : execConfigure wl st par baud s = .next (State.toPhase (if s.par.lcrBusyGuard && s.busy then s else u) p))
    (lost : (s.par.lcrBusyGuard && s.busy) = true)
    (rest : execTimes (.configure wl st par baud) k (s.toPhase p) = o) :
    execTimes (.configure wl st par baud) (k + 1) s = o := by
  rw [lost] at h
  exact configureTimes_next h rest

/-- LCR = 0 has DLAB = 0 (R25). -/
theorem dlab_of_lcr_zero (lcr : s.lcr = 0) : s.dlab = false := by
  rw [State.dlab, lcr]
  rfl

/-- CF_LCR_WR field by field, lost or made. -/
theorem execConfigure_lcrWr_guarded (wl : WordLength) (st : StopBits) (par : Parity) (baud : Word) {lost : Bool}
    (hg : s.gate = .on) (hp : s.self.phase = .cfLcrWr) (guarded : (s.par.lcrBusyGuard && s.busy) = lost) :
    execConfigure wl st par baud s = .next (State.complete { s with
      lcr := if lost then s.lcr else (lowByte s.self.t &&& 0xC0#8) ||| (lcrEncode wl st par).setWidth 8
      hs := .serial } 2) := by
  rw [execConfigure_lcrWr wl st par baud hg hp, guarded_lcr, guarded]

end

/-! ## ENG's way through the phases

Each lemma takes a run over a group of phases to the run from the state they leave; after the gate reset LCR is 0 at
the start of every group. -/

section
variable {s : State} {wl : WordLength} {st : StopBits} {par : Parity} {baud : Word} {k : Nat} {o : Outcome}
  (hcur : s.cur = .eng)
include hcur

/-- The fetch and the gate reset, from an idle ENG without a handle (R160, R161). -/
theorem configure_fetch_reset {d : Divisor} (hs : s.hs = .unbound) (hp : s.eng.phase = .idle)
    (hd : divisor s.par.clkHz baud.toNat = .ok d)
    (rest : execTimes (.configure wl st par baud) k { s.blockReset with
      eng := { s.eng with phase := .cfIerRd } } = o) :
    execTimes (.configure wl st par baud) (k + 2) s = o := by
  have fetch : execConfigure wl st par baud s = .next (s.toPhase .cfGate) :=
    (exec_fetch_eq_next (i := .configure wl st par baud) rfl (by simp [hcur, hp])).2
      ⟨by simp [hcur, hs, admitted], by simp [fetchRefusal, hd], rfl⟩
  refine configureTimes_next fetch ?_
  refine configureTimes_next (execConfigure_gate wl st par baud (by simp [hcur])) ?_
  simpa [State.setEngine, State.blockReset, hcur] using rest

variable (hg : s.gate = .on) (lcr : s.lcr = 0)
include hg lcr

/-- IER's read-modify-write leaves its 0, and the divisor is computed (R161). -/
theorem configure_ier_divisor {d : Divisor} (hp : s.eng.phase = .cfIerRd) (ier : s.ier = 0)
    (hd : divisor s.par.clkHz baud.toNat = .ok d)
    (rest : execTimes (.configure wl st par baud) k { s with
      draws := s.draws + 1
      eng := { s.eng with phase := .cfLcrRd1, d := d, t := s.free.extractLsb' 8 24 ++ 0x00#8 } } = o) :
    execTimes (.configure wl st par baud) (k + 3) s = o := by
  have dlab := dlab_of_lcr_zero lcr
  refine configureTimes_next (execConfigure_ierRd wl st par baud hg (by simp [hcur, hp]) dlab) ?_
  refine configureTimes_next (execConfigure_ierWr wl st par baud (by simpa) (by simp [hcur]) (by simpa)) ?_
  refine configureTimes_next (execConfigure_div wl st par baud (by simp [hcur]) (by simpa using hd)) ?_
  simpa [State.setEngine, State.drew, hcur, ier] using rest

/-- With no write lost the divisor goes to the latches, and LCR is 0 again (R161). -/
theorem configure_latches_made (hp : s.eng.phase = .cfLcrRd1) (made : (s.par.lcrBusyGuard && s.busy) = false)
    (rest : execTimes (.configure wl st par baud) k { s with
      dll := s.eng.d.extractLsb' 0 8, dlh := s.eng.d.extractLsb' 8 8
      draws := s.draws + 1
      eng := { s.eng with phase := .cfLcrRd2, t := s.free.extractLsb' 8 24 ++ 0x00#8 } } = o) :
    execTimes (.configure wl st par baud) (k + 5) s = o := by
  refine configureTimes_next (execConfigure_lcrRd1 wl st par baud hg (by simp [hcur, hp])) ?_
  refine configureTimes_made (execConfigure_lcrSet wl st par baud (by simpa) (by simp [hcur]))
    (by simpa [State.busy] using made) ?_
  refine configureTimes_made (execConfigure_dll wl st par baud (by simpa) (by simp [hcur])
    (by simp [State.dlab, hcur, lcr]; rfl)) (by simpa [State.busy] using made) ?_
  refine configureTimes_made (execConfigure_dlh wl st par baud (by simpa) (by simp [hcur])
    (by simp [State.dlab, hcur, lcr]; rfl)) (by simpa [State.busy] using made) ?_
  refine configureTimes_made (execConfigure_lcrClr wl st par baud (by simpa) (by simp [hcur]))
    (by simpa [State.busy] using made) ?_
  simpa [State.setEngine, State.drew, hcur, lcr] using rest

/-- With its LCR writes lost DLAB stays 0, so the divisor's bytes go to THR and IER (R161, R262). -/
theorem configure_latches_lost (hp : s.eng.phase = .cfLcrRd1) (lost : (s.par.lcrBusyGuard && s.busy) = true)
    (room : s.txq.length ≠ s.par.txDepth)
    (rest : execTimes (.configure wl st par baud) k { s with
      txq := s.txq ++ [s.eng.d.extractLsb' 0 8], ier := s.eng.d.extractLsb' 8 8
      draws := s.draws + 1
      eng := { s.eng with phase := .cfLcrRd2, t := s.free.extractLsb' 8 24 ++ 0x00#8 } } = o) :
    execTimes (.configure wl st par baud) (k + 5) s = o := by
  have dlab := dlab_of_lcr_zero lcr
  have guard : s.par.lcrBusyGuard = true := (Bool.and_eq_true_iff.1 lost).1
  refine configureTimes_next (execConfigure_lcrRd1 wl st par baud hg (by simp [hcur, hp])) ?_
  refine configureTimes_lost (execConfigure_lcrSet wl st par baud (by simpa) (by simp [hcur]))
    (by simpa [State.busy] using lost) ?_
  refine configureTimes_next (execConfigure_dll_thr wl st par baud (by simpa) (by simp [hcur])
    (by simpa [State.dlab] using dlab) (by simpa using room)) ?_
  refine configureTimes_next (execConfigure_dlh_ier wl st par baud (by simpa) (by simp [hcur])
    (by simpa [State.dlab] using dlab)) ?_
  refine configureTimes_lost (execConfigure_lcrClr wl st par baud (by simpa) (by simp [hcur]))
    (by simpa [State.busy] using guard) ?_
  simpa [State.setEngine, State.drew, hcur, lcr] using rest

/-- The last read and write: the format goes to LCR unless the write is lost, and the handle is SERIAL (R161). -/
theorem configure_format {lost : Bool} (hp : s.eng.phase = .cfLcrRd2)
    (guarded : (s.par.lcrBusyGuard && s.busy) = lost)
    (rest : execTimes (.configure wl st par baud) k { s with
      lcr := if lost then 0x00 else (lcrEncode wl st par).setWidth 8
      hs := .serial
      draws := s.draws + 1
      eng := { s.eng with
        cp := s.eng.cp + 2, phase := .idle, t := s.free.extractLsb' 8 24 ++ 0x00#8 } } = o) :
    execTimes (.configure wl st par baud) (k + 2) s = o := by
  refine configureTimes_next (execConfigure_lcrRd2 wl st par baud hg (by simp [hcur, hp])) ?_
  refine configureTimes_next (execConfigure_lcrWr_guarded wl st par baud (by simpa) (by simp [hcur])
    (lost := lost) (by simpa [State.busy] using guarded)) ?_
  simpa [State.setEngine, State.drew, hcur, lcr] using rest

end

/-- Settles O33: the gate reset leaves LCR and IER at 0 and nothing busy that could lose a write. -/
theorem configureEndState : Obligations.ConfigureEndState := by
  intro wl st par baud d s hcur hs hp hd
  have made : (s.par.lcrBusyGuard && State.busy s.blockReset) = false := Bool.and_false _
  refine configure_fetch_reset hcur hs hp hd ?_
  refine configure_ier_divisor hcur rfl rfl rfl rfl hd ?_
  refine configure_latches_made hcur rfl rfl rfl made ?_
  exact configure_format hcur rfl rfl rfl made rfl

/-- Settles O34: BUSY = 1 throughout, so every write of LCR is lost and DLAB stays 0. -/
theorem configureWhileReceiving : Obligations.ConfigureWhileReceiving := by
  intro wl st par baud d s hcur hg hp ier lcr empty active guard valid hd
  have lost : (s.par.lcrBusyGuard && s.busy) = true := by simp [guard, State.busy, active]
  have room : s.txq.length ≠ s.par.txDepth := by
    simp only [Params.valid, Bool.and_eq_true, decide_eq_true_eq] at valid
    rw [empty, List.length_nil]
    omega
  refine ⟨_, configure_ier_divisor hcur hg lcr hp ier hd <| configure_latches_lost hcur hg lcr rfl lost room <|
    configure_format (lost := true) hcur hg lcr rfl ?_ rfl, ?_⟩
  · simp [guard, State.busy, active]
  · simp [empty, active]

end Sys2Proof.Safety
